-- ==== Sys2Proof/Word.lean ====
section
/-! DEFINITION. The words of the block: a 32-bit instruction word, its 16-bit low half, bytes of an instruction stream
and 5-bit register indices (spec 00_scope.md rule R10, R11). -/

namespace Sys2Proof

/-- The input word and the immediate port: 32 bits (R10). -/
abbrev Word := BitVec 32

/-- The low half of the word, where a 16-bit instruction stands (R39, R54). -/
abbrev Half := BitVec 16

/-- A byte of an instruction stream, on the consumer's side only (R40). -/
abbrev Byte := BitVec 8

/-- A register-index port: 5 bits (R10). The block carries indices as data and holds no register file (R29). -/
abbrev Reg := BitVec 5

/-- A 6-bit format-tag code (R56). -/
abbrev Code := BitVec 6

end Sys2Proof
end

