-- ==== Sys2Proof/Config.lean ====
section
/-! DEFINITION. What is fixed for a machine before its first clock edge: the parameters XLEN and CATALOG (R6, R7), the records
the catalog is built from and the records its build reports (R20, R67, R72, R79, R80), and the free value that power-up
leaves in the registers (R180). -/

namespace Sys2Proof

/-- The parameter `wordWidth` of `buildISA` (R6). `rv128` has no reference catalog (R140). -/
inductive XLen where
  | rv32
  | rv64
  | rv128
deriving DecidableEq, Repr, Inhabited

/-- XLEN in bits (R6). -/
def XLen.bits : XLen → Nat
  | .rv32 => 32
  | .rv64 => 64
  | .rv128 => 128

/-- One catalog ROM entry `CAT[i]` (R20): the literal bits, the mask of the literal positions, the width class and the code of
the format tag. A code is kept as its 6 bits, so that a ROM handed over directly may hold a reserved one (R57). -/
structure Entry where
  value : Word
  mask : Word
  w16 : Bool
  fmt : Code
deriving DecidableEq, Repr, Inhabited

/-- One instruction definition (R67). `tag` is the code of the format-tag name, so that a reserved code can be written down
and refused (M8); `width` is the declared length, of which only 16 and 32 are accepted (M7). -/
structure Definition where
  layout : String
  width : Nat
  tag : Code
  moduleName : String
deriving DecidableEq, Repr, Inhabited

/-- A module: an ordered list of definitions under one extension identifier and one instruction width (R67). The width is written once,
for the module; a line holds what is a definition's own, its layout string and the code of its tag. -/
structure CatalogModule where
  name : String
  ext : String
  width : Nat
  lines : List (String × Code)
deriving DecidableEq, Repr, Inhabited

/-- The definitions of a module, in order. Each has the module's width as its declared length, and names the module that holds
it (R67). -/
def CatalogModule.defs (m : CatalogModule) : List Definition := m.lines.map (fun l => ⟨l.1, m.width, l.2, m.name⟩)

/-- The reason codes of `MalformedDefinition` (R72). -/
inductive Reason where
  | m1  -- token widths do not sum to the declared length
  | m2  -- a token is neither a literal nor a field
  | m3  -- a bare field name has no fixed width
  | m4  -- a range has hi < lo
  | m5  -- no mnemonic token, or no token before it
  | m6  -- value & ~mask is not 0
  | m7  -- declared length is not 16 or 32
  | m8  -- format tag reserved or of the other width class
deriving DecidableEq, Repr, Inhabited

/-- The build-time error `MalformedDefinition` with what it carries (R72). -/
structure Malformed where
  moduleName : String
  position : Nat
  layout : String
  reason : Reason
deriving DecidableEq, Repr, Inhabited

/-- The non-fatal build diagnostics (R79, R80). -/
inductive Diagnostic where
  | overlap (i j : Nat)
  | fullshadow (i j : Nat)
  | dead (i : Nat)
deriving DecidableEq, Repr, Inhabited

/-- What a build produces (R75, R78, R79, R80): the ROM contents, the mnemonics kept beside the ROM at elaboration time (R59), the
extension set, and the diagnostics the build emits. -/
structure Catalog where
  entries : List Entry
  names : List String
  extSet : BitVec 32
  diagnostics : List Diagnostic
deriving DecidableEq, Repr, Inhabited

/-- The XLEN the model is reset with (log 1): the spec admits 32 and 64 and works its vectors at 32. -/
def Config.xlen : XLen := .rv32

/-- The value of register number `k` between power-up and the first reset edge: a free value, nothing constrains it (R180,
93_implementation_defined.md U1; log 4). -/
opaque Config.powerUp : Nat → BitVec 32

end Sys2Proof
end

