-- ==== Sys2Proof/Syntax.lean ====
section
/-! DEFINITION. The format tags, the ten decoded fields, and the instructions: one constructor for each row of
spec/opcode_table.json (208 rows; six mnemonics have one row for each XLEN). An instruction's operands are the values the
block reports on its field ports: register indices after the `+8` remap, immediates after extension (R97, R116). -/

namespace Sys2Proof

/-- The format tags (R56). The set is closed; every other 6-bit code is reserved. -/
inductive Tag where
  | none  -- NONE, code 0, R98
  | r  -- R, code 1, R99
  | r2  -- R2, code 2, R100
  | rS  -- R_S, code 3, R101
  | rRm  -- R_RM, code 4, R102
  | r2Rm  -- R2_RM, code 5, R103
  | r4Rm  -- R4_RM, code 6, R104
  | rAmo  -- R_AMO, code 7, R105
  | rLr  -- R_LR, code 8, R106
  | i  -- I, code 9, R107
  | iSh5  -- I_SH5, code 10, R108
  | iSh6  -- I_SH6, code 11, R109
  | iCsr  -- I_CSR, code 12, R110
  | iCsri  -- I_CSRI, code 13, R111
  | s  -- S, code 14, R112
  | b  -- B, code 15, R113
  | u  -- U, code 16, R114
  | j  -- J, code 17, R115
  | cr  -- CR, code 32, R118
  | crJr  -- CR_JR, code 33, R119
  | ci  -- CI, code 34, R120
  | ciLui  -- CI_LUI, code 35, R121
  | ciAddi16sp  -- CI_ADDI16SP, code 36, R122
  | ciSh  -- CI_SH, code 37, R123
  | ciLwsp  -- CI_LWSP, code 38, R124
  | ciLdsp  -- CI_LDSP, code 39, R125
  | cssSwsp  -- CSS_SWSP, code 40, R126
  | cssSdsp  -- CSS_SDSP, code 41, R127
  | ciw  -- CIW, code 42, R128
  | clW  -- CL_W, code 43, R129
  | clD  -- CL_D, code 44, R130
  | csW  -- CS_W, code 45, R131
  | csD  -- CS_D, code 46, R132
  | ca  -- CA, code 47, R133
  | cbBr  -- CB_BR, code 48, R134
  | cbSh  -- CB_SH, code 49, R135
  | cbAndi  -- CB_ANDI, code 50, R136
  | cj  -- CJ, code 51, R137
deriving DecidableEq, Repr, Inhabited

/-- The ten field outputs, `DecodedFields` (R17, R24, R25), at the widths of R10. -/
structure Fields where
  rd : Reg := 0#5
  rs1 : Reg := 0#5
  rs2 : Reg := 0#5
  rs3 : Reg := 0#5
  imm : Word := 0#32
  csr : BitVec 12 := 0#12
  shamt : BitVec 6 := 0#6
  rm : BitVec 3 := 0#3
  aq : Bool := false
  rl : Bool := false
deriving DecidableEq, Repr, Inhabited

/-- The instructions of the reference catalogs (44_reference_catalog.md, R141 to R154), in the order of the opcode table. -/
inductive Instr where
  -- module RV32I (R141)
  | lui (rd : Reg) (imm : Word)
  | auipc (rd : Reg) (imm : Word)
  | jal (rd : Reg) (imm : Word)
  | jalr (rd rs1 : Reg) (imm : Word)
  | beq (rs1 rs2 : Reg) (imm : Word)
  | bne (rs1 rs2 : Reg) (imm : Word)
  | blt (rs1 rs2 : Reg) (imm : Word)
  | bge (rs1 rs2 : Reg) (imm : Word)
  | bltu (rs1 rs2 : Reg) (imm : Word)
  | bgeu (rs1 rs2 : Reg) (imm : Word)
  | lb (rd rs1 : Reg) (imm : Word)
  | lh (rd rs1 : Reg) (imm : Word)
  | lw (rd rs1 : Reg) (imm : Word)
  | lbu (rd rs1 : Reg) (imm : Word)
  | lhu (rd rs1 : Reg) (imm : Word)
  | sb (rs1 rs2 : Reg) (imm : Word)
  | sh (rs1 rs2 : Reg) (imm : Word)
  | sw (rs1 rs2 : Reg) (imm : Word)
  | addi (rd rs1 : Reg) (imm : Word)
  | slti (rd rs1 : Reg) (imm : Word)
  | sltiu (rd rs1 : Reg) (imm : Word)
  | xori (rd rs1 : Reg) (imm : Word)
  | ori (rd rs1 : Reg) (imm : Word)
  | andi (rd rs1 : Reg) (imm : Word)
  | slli32 (rd rs1 : Reg) (shamt : BitVec 6)
  | srli32 (rd rs1 : Reg) (shamt : BitVec 6)
  | srai32 (rd rs1 : Reg) (shamt : BitVec 6)
  | add (rd rs1 rs2 : Reg)
  | sub (rd rs1 rs2 : Reg)
  | sll (rd rs1 rs2 : Reg)
  | slt (rd rs1 rs2 : Reg)
  | sltu (rd rs1 rs2 : Reg)
  | xor (rd rs1 rs2 : Reg)
  | srl (rd rs1 rs2 : Reg)
  | sra (rd rs1 rs2 : Reg)
  | or (rd rs1 rs2 : Reg)
  | and (rd rs1 rs2 : Reg)
  | fence (rd rs1 : Reg) (imm : Word)
  | ecall
  | ebreak
  -- module Zifencei (R143)
  | fenceI
  -- module Zicsr (R144)
  | csrrw (rd rs1 : Reg) (csr : BitVec 12)
  | csrrs (rd rs1 : Reg) (csr : BitVec 12)
  | csrrc (rd rs1 : Reg) (csr : BitVec 12)
  | csrrwi (rd : Reg) (imm : Word) (csr : BitVec 12)
  | csrrsi (rd : Reg) (imm : Word) (csr : BitVec 12)
  | csrrci (rd : Reg) (imm : Word) (csr : BitVec 12)
  -- module RV32M (R145)
  | mul (rd rs1 rs2 : Reg)
  | mulh (rd rs1 rs2 : Reg)
  | mulhsu (rd rs1 rs2 : Reg)
  | mulhu (rd rs1 rs2 : Reg)
  | div (rd rs1 rs2 : Reg)
  | divu (rd rs1 rs2 : Reg)
  | rem (rd rs1 rs2 : Reg)
  | remu (rd rs1 rs2 : Reg)
  -- module RV32A (R147)
  | lrW (rd rs1 : Reg) (aq rl : Bool)
  | scW (rd rs1 rs2 : Reg) (aq rl : Bool)
  | amoswapW (rd rs1 rs2 : Reg) (aq rl : Bool)
  | amoaddW (rd rs1 rs2 : Reg) (aq rl : Bool)
  | amoxorW (rd rs1 rs2 : Reg) (aq rl : Bool)
  | amoandW (rd rs1 rs2 : Reg) (aq rl : Bool)
  | amoorW (rd rs1 rs2 : Reg) (aq rl : Bool)
  | amominW (rd rs1 rs2 : Reg) (aq rl : Bool)
  | amomaxW (rd rs1 rs2 : Reg) (aq rl : Bool)
  | amominuW (rd rs1 rs2 : Reg) (aq rl : Bool)
  | amomaxuW (rd rs1 rs2 : Reg) (aq rl : Bool)
  -- module RV32F (R149)
  | flw (rd rs1 : Reg) (imm : Word)
  | fsw (rs1 rs2 : Reg) (imm : Word)
  | fmaddS (rd rs1 rs2 rs3 : Reg) (rm : BitVec 3)
  | fmsubS (rd rs1 rs2 rs3 : Reg) (rm : BitVec 3)
  | fnmsubS (rd rs1 rs2 rs3 : Reg) (rm : BitVec 3)
  | fnmaddS (rd rs1 rs2 rs3 : Reg) (rm : BitVec 3)
  | faddS (rd rs1 rs2 : Reg) (rm : BitVec 3)
  | fsubS (rd rs1 rs2 : Reg) (rm : BitVec 3)
  | fmulS (rd rs1 rs2 : Reg) (rm : BitVec 3)
  | fdivS (rd rs1 rs2 : Reg) (rm : BitVec 3)
  | fsqrtS (rd rs1 : Reg) (rm : BitVec 3)
  | fsgnjS (rd rs1 rs2 : Reg)
  | fsgnjnS (rd rs1 rs2 : Reg)
  | fsgnjxS (rd rs1 rs2 : Reg)
  | fminS (rd rs1 rs2 : Reg)
  | fmaxS (rd rs1 rs2 : Reg)
  | feqS (rd rs1 rs2 : Reg)
  | fltS (rd rs1 rs2 : Reg)
  | fleS (rd rs1 rs2 : Reg)
  | fclassS (rd rs1 : Reg)
  | fcvtWS (rd rs1 : Reg) (rm : BitVec 3)
  | fcvtWUS (rd rs1 : Reg) (rm : BitVec 3)
  | fcvtSW (rd rs1 : Reg) (rm : BitVec 3)
  | fcvtSWU (rd rs1 : Reg) (rm : BitVec 3)
  | fmvXW (rd rs1 : Reg)
  | fmvWX (rd rs1 : Reg)
  -- module RV32D (R151)
  | fld (rd rs1 : Reg) (imm : Word)
  | fsd (rs1 rs2 : Reg) (imm : Word)
  | fmaddD (rd rs1 rs2 rs3 : Reg) (rm : BitVec 3)
  | fmsubD (rd rs1 rs2 rs3 : Reg) (rm : BitVec 3)
  | fnmsubD (rd rs1 rs2 rs3 : Reg) (rm : BitVec 3)
  | fnmaddD (rd rs1 rs2 rs3 : Reg) (rm : BitVec 3)
  | faddD (rd rs1 rs2 : Reg) (rm : BitVec 3)
  | fsubD (rd rs1 rs2 : Reg) (rm : BitVec 3)
  | fmulD (rd rs1 rs2 : Reg) (rm : BitVec 3)
  | fdivD (rd rs1 rs2 : Reg) (rm : BitVec 3)
  | fsqrtD (rd rs1 : Reg) (rm : BitVec 3)
  | fsgnjD (rd rs1 rs2 : Reg)
  | fsgnjnD (rd rs1 rs2 : Reg)
  | fsgnjxD (rd rs1 rs2 : Reg)
  | fminD (rd rs1 rs2 : Reg)
  | fmaxD (rd rs1 rs2 : Reg)
  | fcvtSD (rd rs1 : Reg) (rm : BitVec 3)
  | fcvtDS (rd rs1 : Reg) (rm : BitVec 3)
  | feqD (rd rs1 rs2 : Reg)
  | fltD (rd rs1 rs2 : Reg)
  | fleD (rd rs1 rs2 : Reg)
  | fclassD (rd rs1 : Reg)
  | fcvtWD (rd rs1 : Reg) (rm : BitVec 3)
  | fcvtWUD (rd rs1 : Reg) (rm : BitVec 3)
  | fcvtDW (rd rs1 : Reg) (rm : BitVec 3)
  | fcvtDWU (rd rs1 : Reg) (rm : BitVec 3)
  -- module Priv (R153)
  | sret
  | mret
  | wfi
  | sfenceVma (rs1 rs2 : Reg)
  -- module RVC (R154)
  | cAddi4spn (rd : Reg) (imm : Word)
  | cFld (rd rs1 : Reg) (imm : Word)
  | cLw (rd rs1 : Reg) (imm : Word)
  | cFlw (rd rs1 : Reg) (imm : Word)
  | cFsd (rs1 rs2 : Reg) (imm : Word)
  | cSw (rs1 rs2 : Reg) (imm : Word)
  | cFsw (rs1 rs2 : Reg) (imm : Word)
  | cNop
  | cAddi (rd : Reg) (imm : Word)
  | cJal (imm : Word)
  | cLi (rd : Reg) (imm : Word)
  | cAddi16sp (imm : Word)
  | cLui (rd : Reg) (imm : Word)
  | cSrli32 (rd : Reg) (shamt : BitVec 6)
  | cSrai32 (rd : Reg) (shamt : BitVec 6)
  | cAndi (rd : Reg) (imm : Word)
  | cSub (rd rs2 : Reg)
  | cXor (rd rs2 : Reg)
  | cOr (rd rs2 : Reg)
  | cAnd (rd rs2 : Reg)
  | cJ (imm : Word)
  | cBeqz (rs1 : Reg) (imm : Word)
  | cBnez (rs1 : Reg) (imm : Word)
  | cSlli32 (rd : Reg) (shamt : BitVec 6)
  | cFldsp (rd : Reg) (imm : Word)
  | cLwsp (rd : Reg) (imm : Word)
  | cFlwsp (rd : Reg) (imm : Word)
  | cEbreak
  | cJr (rs1 : Reg)
  | cMv (rd rs2 : Reg)
  | cJalr (rs1 : Reg)
  | cAdd (rd rs2 : Reg)
  | cFsdsp (rs2 : Reg) (imm : Word)
  | cSwsp (rs2 : Reg) (imm : Word)
  | cFswsp (rs2 : Reg) (imm : Word)
  -- module RV64I (R142)
  | slli64 (rd rs1 : Reg) (shamt : BitVec 6)
  | srli64 (rd rs1 : Reg) (shamt : BitVec 6)
  | srai64 (rd rs1 : Reg) (shamt : BitVec 6)
  | lwu (rd rs1 : Reg) (imm : Word)
  | ld (rd rs1 : Reg) (imm : Word)
  | sd (rs1 rs2 : Reg) (imm : Word)
  | addiw (rd rs1 : Reg) (imm : Word)
  | slliw (rd rs1 : Reg) (shamt : BitVec 6)
  | srliw (rd rs1 : Reg) (shamt : BitVec 6)
  | sraiw (rd rs1 : Reg) (shamt : BitVec 6)
  | addw (rd rs1 rs2 : Reg)
  | subw (rd rs1 rs2 : Reg)
  | sllw (rd rs1 rs2 : Reg)
  | srlw (rd rs1 rs2 : Reg)
  | sraw (rd rs1 rs2 : Reg)
  -- module RV64M (R146)
  | mulw (rd rs1 rs2 : Reg)
  | divw (rd rs1 rs2 : Reg)
  | divuw (rd rs1 rs2 : Reg)
  | remw (rd rs1 rs2 : Reg)
  | remuw (rd rs1 rs2 : Reg)
  -- module RV64A (R148)
  | lrD (rd rs1 : Reg) (aq rl : Bool)
  | scD (rd rs1 rs2 : Reg) (aq rl : Bool)
  | amoswapD (rd rs1 rs2 : Reg) (aq rl : Bool)
  | amoaddD (rd rs1 rs2 : Reg) (aq rl : Bool)
  | amoxorD (rd rs1 rs2 : Reg) (aq rl : Bool)
  | amoandD (rd rs1 rs2 : Reg) (aq rl : Bool)
  | amoorD (rd rs1 rs2 : Reg) (aq rl : Bool)
  | amominD (rd rs1 rs2 : Reg) (aq rl : Bool)
  | amomaxD (rd rs1 rs2 : Reg) (aq rl : Bool)
  | amominuD (rd rs1 rs2 : Reg) (aq rl : Bool)
  | amomaxuD (rd rs1 rs2 : Reg) (aq rl : Bool)
  -- module RV64F (R150)
  | fcvtLS (rd rs1 : Reg) (rm : BitVec 3)
  | fcvtLUS (rd rs1 : Reg) (rm : BitVec 3)
  | fcvtSL (rd rs1 : Reg) (rm : BitVec 3)
  | fcvtSLU (rd rs1 : Reg) (rm : BitVec 3)
  -- module RV64D (R152)
  | fcvtLD (rd rs1 : Reg) (rm : BitVec 3)
  | fcvtLUD (rd rs1 : Reg) (rm : BitVec 3)
  | fmvXD (rd rs1 : Reg)
  | fcvtDL (rd rs1 : Reg) (rm : BitVec 3)
  | fcvtDLU (rd rs1 : Reg) (rm : BitVec 3)
  | fmvDX (rd rs1 : Reg)
  -- module RVC (R154)
  | cLd (rd rs1 : Reg) (imm : Word)
  | cSd (rs1 rs2 : Reg) (imm : Word)
  | cAddiw (rd : Reg) (imm : Word)
  | cSrli64 (rd : Reg) (shamt : BitVec 6)
  | cSrai64 (rd : Reg) (shamt : BitVec 6)
  | cSubw (rd rs2 : Reg)
  | cAddw (rd rs2 : Reg)
  | cSlli64 (rd : Reg) (shamt : BitVec 6)
  | cLdsp (rd : Reg) (imm : Word)
  | cSdsp (rs2 : Reg) (imm : Word)
deriving DecidableEq, Repr, Inhabited

end Sys2Proof
end

