-- ==== Sys2Proof/Machine/Flags.lean ====
section
/-! DEFINITION. The format-tag codes, their width classes and the field-valid vectors (R25, R56, R57). The block has no
arithmetic flags: the field-valid vector is its only vector of status bits beside the valid and hit bits (R32). -/

namespace Sys2Proof.Machine

/-- The 6-bit code of a tag (R56, column `code`). -/
def tagCode : Tag → Code
  | .none => 0#6
  | .r => 1#6
  | .r2 => 2#6
  | .rS => 3#6
  | .rRm => 4#6
  | .r2Rm => 5#6
  | .r4Rm => 6#6
  | .rAmo => 7#6
  | .rLr => 8#6
  | .i => 9#6
  | .iSh5 => 10#6
  | .iSh6 => 11#6
  | .iCsr => 12#6
  | .iCsri => 13#6
  | .s => 14#6
  | .b => 15#6
  | .u => 16#6
  | .j => 17#6
  | .cr => 32#6
  | .crJr => 33#6
  | .ci => 34#6
  | .ciLui => 35#6
  | .ciAddi16sp => 36#6
  | .ciSh => 37#6
  | .ciLwsp => 38#6
  | .ciLdsp => 39#6
  | .cssSwsp => 40#6
  | .cssSdsp => 41#6
  | .ciw => 42#6
  | .clW => 43#6
  | .clD => 44#6
  | .csW => 45#6
  | .csD => 46#6
  | .ca => 47#6
  | .cbBr => 48#6
  | .cbSh => 49#6
  | .cbAndi => 50#6
  | .cj => 51#6

/-- Every tag, in the order of the table of R56. -/
def allTags : List Tag :=
  [.none, .r, .r2, .rS, .rRm, .r2Rm, .r4Rm, .rAmo, .rLr, .i, .iSh5, .iSh6,
   .iCsr, .iCsri, .s, .b, .u, .j, .cr, .crJr, .ci, .ciLui, .ciAddi16sp, .ciSh,
   .ciLwsp, .ciLdsp, .cssSwsp, .cssSdsp, .ciw, .clW, .clD, .csW, .csD, .ca, .cbBr, .cbSh,
   .cbAndi, .cj]

/-- The tag of a code; none for the reserved codes 18..31 and 52..63 (R57). -/
def tagOfCode (c : Code) : Option Tag := allTags.find? (fun t => tagCode t == c)

/-- The code is defined, not reserved (R57). -/
def codeDefined (c : Code) : Bool := (tagOfCode c).isSome

/-- Which codes an entry of a width class may carry: 0..17 for 32-bit entries, 0 and 32..51 for 16-bit entries (R57). -/
def codeAllowed (w16 : Bool) (c : Code) : Bool :=
  codeDefined c && (c == 0#6 || c.getLsbD 5 == w16)

/-- The field-valid vector a tag writes (R56, column `fvalid`; bit order of R25: rd, rs1, rs2, rs3, imm, csr, shamt, rm, aq,
rl from bit 0). -/
def tagFvalid : Tag → BitVec 10
  | .none => 0x000#10
  | .r => 0x007#10
  | .r2 => 0x003#10
  | .rS => 0x006#10
  | .rRm => 0x087#10
  | .r2Rm => 0x083#10
  | .r4Rm => 0x08F#10
  | .rAmo => 0x307#10
  | .rLr => 0x303#10
  | .i => 0x013#10
  | .iSh5 => 0x043#10
  | .iSh6 => 0x043#10
  | .iCsr => 0x023#10
  | .iCsri => 0x031#10
  | .s => 0x016#10
  | .b => 0x016#10
  | .u => 0x011#10
  | .j => 0x011#10
  | .cr => 0x005#10
  | .crJr => 0x002#10
  | .ci => 0x011#10
  | .ciLui => 0x011#10
  | .ciAddi16sp => 0x010#10
  | .ciSh => 0x041#10
  | .ciLwsp => 0x011#10
  | .ciLdsp => 0x011#10
  | .cssSwsp => 0x014#10
  | .cssSdsp => 0x014#10
  | .ciw => 0x011#10
  | .clW => 0x013#10
  | .clD => 0x013#10
  | .csW => 0x016#10
  | .csD => 0x016#10
  | .ca => 0x005#10
  | .cbBr => 0x012#10
  | .cbSh => 0x041#10
  | .cbAndi => 0x011#10
  | .cj => 0x010#10

/-- `fv(t)` of a code: the tag's vector, 0x000 for a reserved code (R95). -/
def fvalidOf (c : Code) : BitVec 10 :=
  match tagOfCode c with
  | some t => tagFvalid t
  | none => 0#10

end Sys2Proof.Machine
end

