-- ==== Sys2Proof/Machine/Operands.lean ====
section
/-! DEFINITION. The operand forms: one rule for each format tag, reading fixed bit positions of the word (42_extract_32bit.md
R98 to R115, 43_extract_16bit.md R116 to R137), and the mux that drives the ten field ports (R95). -/

namespace Sys2Proof.Machine

/-- `sext_N` (R13): the `n`-bit two's-complement number as a 32-bit value. -/
def sext (n : Nat) (v : BitVec n) : Word := v.signExtend 32

/-- `zext_N` (R13). -/
def zext (n : Nat) (v : BitVec n) : Word := v.setWidth 32

/-! The register fields of the 32-bit formats (R52). -/

def fieldRd (w : Word) : Reg := w.extractLsb 11 7
def fieldRs1 (w : Word) : Reg := w.extractLsb 19 15
def fieldRs2 (w : Word) : Reg := w.extractLsb 24 20
def fieldRs3 (w : Word) : Reg := w.extractLsb 31 27
def fieldRm (w : Word) : BitVec 3 := w.extractLsb 14 12
def fieldCsr (w : Word) : BitVec 12 := w.extractLsb 31 20

/-! The immediates and shift amounts of the 32-bit formats (R53, R107 to R115). -/

def immI (w : Word) : Word := sext 12 (w.extractLsb 31 20)
def immS (w : Word) : Word := sext 12 (w.extractLsb 31 25 ++ w.extractLsb 11 7)
def immB (w : Word) : Word :=
  sext 13 (w.extractLsb 31 31 ++ w.extractLsb 7 7 ++ w.extractLsb 30 25 ++ w.extractLsb 11 8 ++ 0#1)
def immU (w : Word) : Word := w.extractLsb 31 12 ++ 0#12
def immJ (w : Word) : Word :=
  sext 21 (w.extractLsb 31 31 ++ w.extractLsb 19 12 ++ w.extractLsb 20 20 ++ w.extractLsb 30 21 ++ 0#1)
def immCsri (w : Word) : Word := zext 5 (w.extractLsb 19 15)
def shamt5 (w : Word) : BitVec 6 := (w.extractLsb 24 20).setWidth 6
def shamt6 (w : Word) : BitVec 6 := w.extractLsb 25 20

/-! The compressed forms read `c = w[15:0]` (R54). -/

/-- A 3-bit register field names x8 to x15: `rp(x) = 8 + zext_5(x)` (R116). -/
def rp (x : BitVec 3) : Reg := 8#5 + x.setWidth 5

def fieldCRd (c : Half) : Reg := c.extractLsb 11 7
def fieldCRs2 (c : Half) : Reg := c.extractLsb 6 2
def fieldCHigh (c : Half) : Reg := rp (c.extractLsb 9 7)
def fieldCLow (c : Half) : Reg := rp (c.extractLsb 4 2)

/-! The compressed immediates and shift amount (R55). -/

def immCI (c : Half) : Word := sext 6 (c.extractLsb 12 12 ++ c.extractLsb 6 2)
def immCLui (c : Half) : Word := sext 18 (c.extractLsb 12 12 ++ c.extractLsb 6 2 ++ 0#12)
def immCAddi16sp (c : Half) : Word :=
  sext 10 (c.extractLsb 12 12 ++ c.extractLsb 4 3 ++ c.extractLsb 5 5 ++ c.extractLsb 2 2 ++ c.extractLsb 6 6 ++ 0#4)
def immCLwsp (c : Half) : Word := zext 8 (c.extractLsb 3 2 ++ c.extractLsb 12 12 ++ c.extractLsb 6 4 ++ 0#2)
def immCLdsp (c : Half) : Word := zext 9 (c.extractLsb 4 2 ++ c.extractLsb 12 12 ++ c.extractLsb 6 5 ++ 0#3)
def immCSwsp (c : Half) : Word := zext 8 (c.extractLsb 8 7 ++ c.extractLsb 12 9 ++ 0#2)
def immCSdsp (c : Half) : Word := zext 9 (c.extractLsb 9 7 ++ c.extractLsb 12 10 ++ 0#3)
def immCIW (c : Half) : Word :=
  zext 10 (c.extractLsb 10 7 ++ c.extractLsb 12 11 ++ c.extractLsb 5 5 ++ c.extractLsb 6 6 ++ 0#2)
def immCW (c : Half) : Word := zext 7 (c.extractLsb 5 5 ++ c.extractLsb 12 10 ++ c.extractLsb 6 6 ++ 0#2)
def immCD (c : Half) : Word := zext 8 (c.extractLsb 6 5 ++ c.extractLsb 12 10 ++ 0#3)
def immCB (c : Half) : Word :=
  sext 9 (c.extractLsb 12 12 ++ c.extractLsb 6 5 ++ c.extractLsb 2 2 ++ c.extractLsb 11 10 ++ c.extractLsb 4 3 ++ 0#1)
def immCJ (c : Half) : Word :=
  sext 12 (c.extractLsb 12 12 ++ c.extractLsb 8 8 ++ c.extractLsb 10 9 ++ c.extractLsb 6 6 ++ c.extractLsb 7 7 ++
    c.extractLsb 2 2 ++ c.extractLsb 11 11 ++ c.extractLsb 5 3 ++ 0#1)
def shamtC (c : Half) : BitVec 6 := c.extractLsb 12 12 ++ c.extractLsb 6 2

/-- `c = w[15:0]` (R54). -/
def lowHalf (w : Word) : Half := w.extractLsb 15 0

/-- `val_F` for every field of a 32-bit tag (R98 to R115). A field the tag gives no value is left at 0; the mux drives 0 for
it in any case (R95). -/
def values32 (w : Word) : Tag → Fields
  | .r => { rd := fieldRd w, rs1 := fieldRs1 w, rs2 := fieldRs2 w }
  | .r2 => { rd := fieldRd w, rs1 := fieldRs1 w }
  | .rS => { rs1 := fieldRs1 w, rs2 := fieldRs2 w }
  | .rRm => { rd := fieldRd w, rs1 := fieldRs1 w, rs2 := fieldRs2 w, rm := fieldRm w }
  | .r2Rm => { rd := fieldRd w, rs1 := fieldRs1 w, rm := fieldRm w }
  | .r4Rm => { rd := fieldRd w, rs1 := fieldRs1 w, rs2 := fieldRs2 w, rs3 := fieldRs3 w, rm := fieldRm w }
  | .rAmo => { rd := fieldRd w, rs1 := fieldRs1 w, rs2 := fieldRs2 w, aq := w.getLsbD 26, rl := w.getLsbD 25 }
  | .rLr => { rd := fieldRd w, rs1 := fieldRs1 w, aq := w.getLsbD 26, rl := w.getLsbD 25 }
  | .i => { rd := fieldRd w, rs1 := fieldRs1 w, imm := immI w }
  | .iSh5 => { rd := fieldRd w, rs1 := fieldRs1 w, shamt := shamt5 w }
  | .iSh6 => { rd := fieldRd w, rs1 := fieldRs1 w, shamt := shamt6 w }
  | .iCsr => { rd := fieldRd w, rs1 := fieldRs1 w, csr := fieldCsr w }
  | .iCsri => { rd := fieldRd w, imm := immCsri w, csr := fieldCsr w }
  | .s => { rs1 := fieldRs1 w, rs2 := fieldRs2 w, imm := immS w }
  | .b => { rs1 := fieldRs1 w, rs2 := fieldRs2 w, imm := immB w }
  | .u => { rd := fieldRd w, imm := immU w }
  | .j => { rd := fieldRd w, imm := immJ w }
  | _ => {}

/-- `val_F` for every field of a compressed tag (R118 to R137). Combined and implicit operands are not driven (R117). -/
def values16 (c : Half) : Tag → Fields
  | .cr => { rd := fieldCRd c, rs2 := fieldCRs2 c }
  | .crJr => { rs1 := fieldCRd c }
  | .ci => { rd := fieldCRd c, imm := immCI c }
  | .ciLui => { rd := fieldCRd c, imm := immCLui c }
  | .ciAddi16sp => { imm := immCAddi16sp c }
  | .ciSh => { rd := fieldCRd c, shamt := shamtC c }
  | .ciLwsp => { rd := fieldCRd c, imm := immCLwsp c }
  | .ciLdsp => { rd := fieldCRd c, imm := immCLdsp c }
  | .cssSwsp => { rs2 := fieldCRs2 c, imm := immCSwsp c }
  | .cssSdsp => { rs2 := fieldCRs2 c, imm := immCSdsp c }
  | .ciw => { rd := fieldCLow c, imm := immCIW c }
  | .clW => { rd := fieldCLow c, rs1 := fieldCHigh c, imm := immCW c }
  | .clD => { rd := fieldCLow c, rs1 := fieldCHigh c, imm := immCD c }
  | .csW => { rs1 := fieldCHigh c, rs2 := fieldCLow c, imm := immCW c }
  | .csD => { rs1 := fieldCHigh c, rs2 := fieldCLow c, imm := immCD c }
  | .ca => { rd := fieldCHigh c, rs2 := fieldCLow c }
  | .cbBr => { rs1 := fieldCHigh c, imm := immCB c }
  | .cbSh => { rd := fieldCHigh c, shamt := shamtC c }
  | .cbAndi => { rd := fieldCHigh c, imm := immCI c }
  | .cj => { imm := immCJ c }
  | _ => {}

/-- `val_F` of every field for a tag: tag NONE gives no field a value (R98). -/
def tagValues (t : Tag) (w : Word) : Fields :=
  if (tagCode t).getLsbD 5 then values16 (lowHalf w) t else values32 w t

/-- `f.F = fv[bit(F)] ? val_F : 0` for each of the ten fields, with the bit positions of R25 (R95). -/
def gateFields (fv : BitVec 10) (v : Fields) : Fields where
  rd := if fv.getLsbD 0 then v.rd else 0#5
  rs1 := if fv.getLsbD 1 then v.rs1 else 0#5
  rs2 := if fv.getLsbD 2 then v.rs2 else 0#5
  rs3 := if fv.getLsbD 3 then v.rs3 else 0#5
  imm := if fv.getLsbD 4 then v.imm else 0#32
  csr := if fv.getLsbD 5 then v.csr else 0#12
  shamt := if fv.getLsbD 6 then v.shamt else 0#6
  rm := if fv.getLsbD 7 then v.rm else 0#3
  aq := fv.getLsbD 8 && v.aq
  rl := fv.getLsbD 9 && v.rl

/-- The field ports of a tag (R95). -/
def tagFields (t : Tag) (w : Word) : Fields := gateFields (tagFvalid t) (tagValues t w)

/-- The field ports of a tag code; a reserved code is treated as NONE (R57, R95). -/
def fieldsOf (c : Code) (w : Word) : Fields :=
  match tagOfCode c with
  | some t => tagFields t w
  | none => {}

end Sys2Proof.Machine
end

