-- ==== Sys2Proof/Machine/Matcher.lean ====
section
/-! DEFINITION. Stage 1's combinational half: width classification, truncation, the comparator array, the first-match priority
encoder and the format selection (41_matcher.md R85 to R90). Every function reads a ROM that is a list of entries. -/

namespace Sys2Proof.Machine

/-- `len4 = (in_word[1:0] == 2'b11)` (R85). -/
def isLen4 (w : Word) : Bool := w.extractLsb 1 0 == 0b11#2

/-- `wt`: the whole word when it is 32-bit, else its low half (R86). -/
def truncWord (w : Word) : Word := if isLen4 w then w else 0#16 ++ w.extractLsb 15 0

/-- `IDX_W = max(1, ceil(log2(max(N, 2))))`, the width of a match index for a catalog of `n` entries (R8). -/
def idxWidth (n : Nat) : Nat := max 1 (Nat.log2 (max n 2 - 1) + 1)

/-- `match_i` for the entry `e` (R87): the width test and the mask/value test, on the truncated word. -/
def entryMatches (e : Entry) (w : Word) : Bool :=
  e.w16 == !isLen4 w && truncWord w &&& e.mask == e.value

/-- The priority encoder: the least index whose comparator is set, or none (R88). -/
def firstMatch (rom : List Entry) (w : Word) : Option Nat := rom.findIdx? (entryMatches · w)

/-- `hit` (R88). -/
def matchHit (rom : List Entry) (w : Word) : Bool := rom.any (entryMatches · w)

/-- `idx`: the winning index, 0 when there is no hit (R88). -/
def matchIndex (rom : List Entry) (w : Word) : Nat := (firstMatch rom w).getD 0

/-- `fmt`: the winning entry's tag code, NONE when there is no hit (R89). -/
def matchFmt (rom : List Entry) (w : Word) : Code :=
  match firstMatch rom w with
  | some k => (rom[k]?.map Entry.fmt).getD 0#6
  | none => 0#6

/-- The source's `lookup`: a linear scan of the catalog of the word's width class for the first definition whose mask and value
match (R90). The hardware does not contain it; R90 says the matcher agrees with it. -/
def lookupScan (rom : List Entry) (w : Word) : Option Entry :=
  (rom.filter (fun e => e.w16 == !isLen4 w)).find? (fun e => truncWord w &&& e.mask == e.value)

end Sys2Proof.Machine
end

