-- ==== Sys2Proof/WellFormed.lean ====
section
/-! DEFINITION. Which terms of Instr stand for a word of the reference catalogs: the operands are values that the
instruction's format can carry (R53, R55, R116), and the word is not one that an earlier entry takes (R81). -/

namespace Sys2Proof

/-- `imm` is `sext_n` of its low `n` bits (R13): an immediate of declared width `n`, sign-extended. -/
def fitsSext (n : Nat) (imm : Word) : Bool := (imm.setWidth n).signExtend 32 == imm

/-- `imm` is `zext_n` of its low `n` bits (R13). -/
def fitsZext (n : Nat) (imm : Word) : Bool := (imm.setWidth n).setWidth 32 == imm

/-- The low `k` bits of `imm` are the literal zeros its format puts there (R53, R55). -/
def lowZero (k : Nat) (imm : Word) : Bool := imm.setWidth k == 0#k

/-- The register is one that a 3-bit compressed field names, x8 to x15 (R116). -/
def isPrime (r : Reg) : Bool := 8 ≤ r.toNat && r.toNat ≤ 15

/-- The shift amount is one that 5 bits carry (R108; R123 and R135 with `c[12]` literal 0). -/
def fitsFive (shamt : BitVec 6) : Bool := decide (shamt.toNat < 32)

/-- The term is an instruction of the catalogs. The last conditions of C.ADDI, C.LUI, C.MV, C.JALR and C.ADD leave out the words
that C.NOP, C.ADDI16SP, C.JR, C.EBREAK and C.JALR take first (R81). -/
def WellFormed : Instr → Bool
  -- U (R114)
  | .lui _ imm | .auipc _ imm => lowZero 12 imm
  -- J (R115)
  | .jal _ imm => fitsSext 21 imm && lowZero 1 imm
  -- I (R107)
  | .jalr _ _ imm | .lb _ _ imm | .lh _ _ imm | .lw _ _ imm | .lbu _ _ imm | .lhu _ _ imm | .addi _ _ imm
  | .slti _ _ imm | .sltiu _ _ imm | .xori _ _ imm | .ori _ _ imm | .andi _ _ imm | .fence _ _ imm | .flw _ _ imm
  | .fld _ _ imm | .lwu _ _ imm | .ld _ _ imm | .addiw _ _ imm => fitsSext 12 imm
  -- B (R113)
  | .beq _ _ imm | .bne _ _ imm | .blt _ _ imm | .bge _ _ imm | .bltu _ _ imm | .bgeu _ _ imm => fitsSext 13 imm && lowZero 1 imm
  -- S (R112)
  | .sb _ _ imm | .sh _ _ imm | .sw _ _ imm | .fsw _ _ imm | .fsd _ _ imm | .sd _ _ imm => fitsSext 12 imm
  -- I_SH5 (R108)
  | .slli32 _ _ shamt | .srli32 _ _ shamt | .srai32 _ _ shamt | .slliw _ _ shamt | .srliw _ _ shamt
  | .sraiw _ _ shamt => fitsFive shamt
  -- R (R99)
  | .add _ _ _ | .sub _ _ _ | .sll _ _ _ | .slt _ _ _ | .sltu _ _ _ | .xor _ _ _ | .srl _ _ _ | .sra _ _ _
  | .or _ _ _ | .and _ _ _ | .mul _ _ _ | .mulh _ _ _ | .mulhsu _ _ _ | .mulhu _ _ _ | .div _ _ _ | .divu _ _ _
  | .rem _ _ _ | .remu _ _ _ | .fsgnjS _ _ _ | .fsgnjnS _ _ _ | .fsgnjxS _ _ _ | .fminS _ _ _ | .fmaxS _ _ _
  | .feqS _ _ _ | .fltS _ _ _ | .fleS _ _ _ | .fsgnjD _ _ _ | .fsgnjnD _ _ _ | .fsgnjxD _ _ _ | .fminD _ _ _
  | .fmaxD _ _ _ | .feqD _ _ _ | .fltD _ _ _ | .fleD _ _ _ | .addw _ _ _ | .subw _ _ _ | .sllw _ _ _ | .srlw _ _ _
  | .sraw _ _ _ | .mulw _ _ _ | .divw _ _ _ | .divuw _ _ _ | .remw _ _ _ | .remuw _ _ _ => true
  -- NONE (R98)
  | .ecall | .ebreak | .fenceI | .sret | .mret | .wfi | .cNop | .cEbreak => true
  -- I_CSR (R110)
  | .csrrw _ _ _ | .csrrs _ _ _ | .csrrc _ _ _ => true
  -- I_CSRI (R111)
  | .csrrwi _ imm _ | .csrrsi _ imm _ | .csrrci _ imm _ => fitsZext 5 imm
  -- R_LR (R106)
  | .lrW _ _ _ _ | .lrD _ _ _ _ => true
  -- R_AMO (R105)
  | .scW _ _ _ _ _ | .amoswapW _ _ _ _ _ | .amoaddW _ _ _ _ _ | .amoxorW _ _ _ _ _ | .amoandW _ _ _ _ _
  | .amoorW _ _ _ _ _ | .amominW _ _ _ _ _ | .amomaxW _ _ _ _ _ | .amominuW _ _ _ _ _ | .amomaxuW _ _ _ _ _
  | .scD _ _ _ _ _ | .amoswapD _ _ _ _ _ | .amoaddD _ _ _ _ _ | .amoxorD _ _ _ _ _ | .amoandD _ _ _ _ _
  | .amoorD _ _ _ _ _ | .amominD _ _ _ _ _ | .amomaxD _ _ _ _ _ | .amominuD _ _ _ _ _ | .amomaxuD _ _ _ _ _ => true
  -- R4_RM (R104)
  | .fmaddS _ _ _ _ _ | .fmsubS _ _ _ _ _ | .fnmsubS _ _ _ _ _ | .fnmaddS _ _ _ _ _ | .fmaddD _ _ _ _ _
  | .fmsubD _ _ _ _ _ | .fnmsubD _ _ _ _ _ | .fnmaddD _ _ _ _ _ => true
  -- R_RM (R102)
  | .faddS _ _ _ _ | .fsubS _ _ _ _ | .fmulS _ _ _ _ | .fdivS _ _ _ _ | .faddD _ _ _ _ | .fsubD _ _ _ _
  | .fmulD _ _ _ _ | .fdivD _ _ _ _ => true
  -- R2_RM (R103)
  | .fsqrtS _ _ _ | .fcvtWS _ _ _ | .fcvtWUS _ _ _ | .fcvtSW _ _ _ | .fcvtSWU _ _ _ | .fsqrtD _ _ _ | .fcvtSD _ _ _
  | .fcvtDS _ _ _ | .fcvtWD _ _ _ | .fcvtWUD _ _ _ | .fcvtDW _ _ _ | .fcvtDWU _ _ _ | .fcvtLS _ _ _ | .fcvtLUS _ _ _
  | .fcvtSL _ _ _ | .fcvtSLU _ _ _ | .fcvtLD _ _ _ | .fcvtLUD _ _ _ | .fcvtDL _ _ _ | .fcvtDLU _ _ _ => true
  -- R2 (R100)
  | .fclassS _ _ | .fmvXW _ _ | .fmvWX _ _ | .fclassD _ _ | .fmvXD _ _ | .fmvDX _ _ => true
  -- R_S (R101)
  | .sfenceVma _ _ => true
  -- CIW (R128)
  | .cAddi4spn rd imm => isPrime rd && fitsZext 10 imm && lowZero 2 imm
  -- CL_D (R130)
  | .cFld rd rs1 imm | .cLd rd rs1 imm => isPrime rd && isPrime rs1 && fitsZext 8 imm && lowZero 3 imm
  -- CL_W (R129)
  | .cLw rd rs1 imm | .cFlw rd rs1 imm => isPrime rd && isPrime rs1 && fitsZext 7 imm && lowZero 2 imm
  -- CS_D (R132)
  | .cFsd rs1 rs2 imm | .cSd rs1 rs2 imm => isPrime rs1 && isPrime rs2 && fitsZext 8 imm && lowZero 3 imm
  -- CS_W (R131)
  | .cSw rs1 rs2 imm | .cFsw rs1 rs2 imm => isPrime rs1 && isPrime rs2 && fitsZext 7 imm && lowZero 2 imm
  -- CI (R120)
  | .cAddi rd imm => fitsSext 6 imm && !(rd == 0#5 && imm == 0#32)
  -- CJ (R137)
  | .cJal imm | .cJ imm => fitsSext 12 imm && lowZero 1 imm
  -- CI (R120)
  | .cLi _ imm | .cAddiw _ imm => fitsSext 6 imm
  -- CI_ADDI16SP (R122)
  | .cAddi16sp imm => fitsSext 10 imm && lowZero 4 imm
  -- CI_LUI (R121)
  | .cLui rd imm => fitsSext 18 imm && lowZero 12 imm && rd != 2#5
  -- CB_SH (R135)
  | .cSrli32 rd shamt | .cSrai32 rd shamt => isPrime rd && fitsFive shamt
  -- CB_ANDI (R136)
  | .cAndi rd imm => isPrime rd && fitsSext 6 imm
  -- CA (R133)
  | .cSub rd rs2 | .cXor rd rs2 | .cOr rd rs2 | .cAnd rd rs2 | .cSubw rd rs2 | .cAddw rd rs2 => isPrime rd && isPrime rs2
  -- CB_BR (R134)
  | .cBeqz rs1 imm | .cBnez rs1 imm => isPrime rs1 && fitsSext 9 imm && lowZero 1 imm
  -- CI_SH (R123)
  | .cSlli32 _ shamt => fitsFive shamt
  -- CI_LDSP (R125)
  | .cFldsp _ imm | .cLdsp _ imm => fitsZext 9 imm && lowZero 3 imm
  -- CI_LWSP (R124)
  | .cLwsp _ imm | .cFlwsp _ imm => fitsZext 8 imm && lowZero 2 imm
  -- CR_JR (R119)
  | .cJr _ => true
  -- CR (R118)
  | .cMv _ rs2 | .cAdd _ rs2 => rs2 != 0#5
  -- CR_JR (R119)
  | .cJalr rs1 => rs1 != 0#5
  -- CSS_SDSP (R127)
  | .cFsdsp _ imm | .cSdsp _ imm => fitsZext 9 imm && lowZero 3 imm
  -- CSS_SWSP (R126)
  | .cSwsp _ imm | .cFswsp _ imm => fitsZext 8 imm && lowZero 2 imm
  -- I_SH6 (R109)
  | .slli64 _ _ _ | .srli64 _ _ _ | .srai64 _ _ _ => true
  -- CB_SH (R135)
  | .cSrli64 rd _ | .cSrai64 rd _ => isPrime rd
  -- CI_SH (R123)
  | .cSlli64 _ _ => true

end Sys2Proof
end

