-- ==== Sys2Proof/Decode.lean ====
section
/-! DEFINITION. The decoder, from words and bytes to instructions, and the encoder. The opcode table below is the reference
catalog of 44_reference_catalog.md, one row a definition, in the order of composition (R138); a row's `make` reads the
operands from the field ports of the row's tag. The first matching row wins (R88). -/

namespace Sys2Proof

open Sys2Proof.Machine

/-- One row of the reference catalog: the XLEN values whose catalog holds it, `match`, `mask`, the width class, the tag, and
the instruction the row stands for, from the decoded fields. -/
structure TableRow where
  on32 : Bool
  on64 : Bool
  value : Word
  mask : Word
  w16 : Bool
  tag : Tag
  make : Fields → Instr

/-- The row as a ROM entry (R20). -/
def TableRow.entry (r : TableRow) : Entry := ⟨r.value, r.mask, r.w16, tagCode r.tag⟩

/-- The definition's XLEN filter admits the build's XLEN (R138). -/
def TableRow.admits (r : TableRow) : XLen → Bool
  | .rv32 => r.on32
  | .rv64 => r.on64
  | .rv128 => false

/-- A 32-bit row present for both XLEN values. -/
def row32 (value mask : Word) (tag : Tag) (make : Fields → Instr) : TableRow := ⟨true, true, value, mask, false, tag, make⟩

/-- A 16-bit row present for both XLEN values. -/
def row16 (value mask : Word) (tag : Tag) (make : Fields → Instr) : TableRow := ⟨true, true, value, mask, true, tag, make⟩

/-- The row only for XLEN = 32. -/
def TableRow.only32 (r : TableRow) : TableRow := { r with on64 := false }

/-- The row only for XLEN = 64. -/
def TableRow.only64 (r : TableRow) : TableRow := { r with on32 := false }

/-- Module RV32I (R141). -/
def tableRv32i : List TableRow := [
  row32 0x00000037 0x0000007F .u (fun f => .lui f.rd f.imm),
  row32 0x00000017 0x0000007F .u (fun f => .auipc f.rd f.imm),
  row32 0x0000006F 0x0000007F .j (fun f => .jal f.rd f.imm),
  row32 0x00000067 0x0000707F .i (fun f => .jalr f.rd f.rs1 f.imm),
  row32 0x00000063 0x0000707F .b (fun f => .beq f.rs1 f.rs2 f.imm),
  row32 0x00001063 0x0000707F .b (fun f => .bne f.rs1 f.rs2 f.imm),
  row32 0x00004063 0x0000707F .b (fun f => .blt f.rs1 f.rs2 f.imm),
  row32 0x00005063 0x0000707F .b (fun f => .bge f.rs1 f.rs2 f.imm),
  row32 0x00006063 0x0000707F .b (fun f => .bltu f.rs1 f.rs2 f.imm),
  row32 0x00007063 0x0000707F .b (fun f => .bgeu f.rs1 f.rs2 f.imm),
  row32 0x00000003 0x0000707F .i (fun f => .lb f.rd f.rs1 f.imm),
  row32 0x00001003 0x0000707F .i (fun f => .lh f.rd f.rs1 f.imm),
  row32 0x00002003 0x0000707F .i (fun f => .lw f.rd f.rs1 f.imm),
  row32 0x00004003 0x0000707F .i (fun f => .lbu f.rd f.rs1 f.imm),
  row32 0x00005003 0x0000707F .i (fun f => .lhu f.rd f.rs1 f.imm),
  row32 0x00000023 0x0000707F .s (fun f => .sb f.rs1 f.rs2 f.imm),
  row32 0x00001023 0x0000707F .s (fun f => .sh f.rs1 f.rs2 f.imm),
  row32 0x00002023 0x0000707F .s (fun f => .sw f.rs1 f.rs2 f.imm),
  row32 0x00000013 0x0000707F .i (fun f => .addi f.rd f.rs1 f.imm),
  row32 0x00002013 0x0000707F .i (fun f => .slti f.rd f.rs1 f.imm),
  row32 0x00003013 0x0000707F .i (fun f => .sltiu f.rd f.rs1 f.imm),
  row32 0x00004013 0x0000707F .i (fun f => .xori f.rd f.rs1 f.imm),
  row32 0x00006013 0x0000707F .i (fun f => .ori f.rd f.rs1 f.imm),
  row32 0x00007013 0x0000707F .i (fun f => .andi f.rd f.rs1 f.imm),
  (row32 0x00001013 0xFE00707F .iSh5 (fun f => .slli32 f.rd f.rs1 f.shamt)).only32,
  (row32 0x00005013 0xFE00707F .iSh5 (fun f => .srli32 f.rd f.rs1 f.shamt)).only32,
  (row32 0x40005013 0xFE00707F .iSh5 (fun f => .srai32 f.rd f.rs1 f.shamt)).only32,
  row32 0x00000033 0xFE00707F .r (fun f => .add f.rd f.rs1 f.rs2),
  row32 0x40000033 0xFE00707F .r (fun f => .sub f.rd f.rs1 f.rs2),
  row32 0x00001033 0xFE00707F .r (fun f => .sll f.rd f.rs1 f.rs2),
  row32 0x00002033 0xFE00707F .r (fun f => .slt f.rd f.rs1 f.rs2),
  row32 0x00003033 0xFE00707F .r (fun f => .sltu f.rd f.rs1 f.rs2),
  row32 0x00004033 0xFE00707F .r (fun f => .xor f.rd f.rs1 f.rs2),
  row32 0x00005033 0xFE00707F .r (fun f => .srl f.rd f.rs1 f.rs2),
  row32 0x40005033 0xFE00707F .r (fun f => .sra f.rd f.rs1 f.rs2),
  row32 0x00006033 0xFE00707F .r (fun f => .or f.rd f.rs1 f.rs2),
  row32 0x00007033 0xFE00707F .r (fun f => .and f.rd f.rs1 f.rs2),
  row32 0x0000000F 0x0000707F .i (fun f => .fence f.rd f.rs1 f.imm),
  row32 0x00000073 0xFFFFFFFF .none (fun _ => .ecall),
  row32 0x00100073 0xFFFFFFFF .none (fun _ => .ebreak)]

/-- Module RV64I (R142). -/
def tableRv64i : List TableRow := [
  (row32 0x00001013 0xFC00707F .iSh6 (fun f => .slli64 f.rd f.rs1 f.shamt)).only64,
  (row32 0x00005013 0xFC00707F .iSh6 (fun f => .srli64 f.rd f.rs1 f.shamt)).only64,
  (row32 0x40005013 0xFC00707F .iSh6 (fun f => .srai64 f.rd f.rs1 f.shamt)).only64,
  (row32 0x00006003 0x0000707F .i (fun f => .lwu f.rd f.rs1 f.imm)).only64,
  (row32 0x00003003 0x0000707F .i (fun f => .ld f.rd f.rs1 f.imm)).only64,
  (row32 0x00003023 0x0000707F .s (fun f => .sd f.rs1 f.rs2 f.imm)).only64,
  (row32 0x0000001B 0x0000707F .i (fun f => .addiw f.rd f.rs1 f.imm)).only64,
  (row32 0x0000101B 0xFE00707F .iSh5 (fun f => .slliw f.rd f.rs1 f.shamt)).only64,
  (row32 0x0000501B 0xFE00707F .iSh5 (fun f => .srliw f.rd f.rs1 f.shamt)).only64,
  (row32 0x4000501B 0xFE00707F .iSh5 (fun f => .sraiw f.rd f.rs1 f.shamt)).only64,
  (row32 0x0000003B 0xFE00707F .r (fun f => .addw f.rd f.rs1 f.rs2)).only64,
  (row32 0x4000003B 0xFE00707F .r (fun f => .subw f.rd f.rs1 f.rs2)).only64,
  (row32 0x0000103B 0xFE00707F .r (fun f => .sllw f.rd f.rs1 f.rs2)).only64,
  (row32 0x0000503B 0xFE00707F .r (fun f => .srlw f.rd f.rs1 f.rs2)).only64,
  (row32 0x4000503B 0xFE00707F .r (fun f => .sraw f.rd f.rs1 f.rs2)).only64]

/-- Module Zifencei (R143). -/
def tableZifencei : List TableRow := [
  row32 0x0000100F 0xFFFFFFFF .none (fun _ => .fenceI)]

/-- Module Zicsr (R144). -/
def tableZicsr : List TableRow := [
  row32 0x00001073 0x0000707F .iCsr (fun f => .csrrw f.rd f.rs1 f.csr),
  row32 0x00002073 0x0000707F .iCsr (fun f => .csrrs f.rd f.rs1 f.csr),
  row32 0x00003073 0x0000707F .iCsr (fun f => .csrrc f.rd f.rs1 f.csr),
  row32 0x00005073 0x0000707F .iCsri (fun f => .csrrwi f.rd f.imm f.csr),
  row32 0x00006073 0x0000707F .iCsri (fun f => .csrrsi f.rd f.imm f.csr),
  row32 0x00007073 0x0000707F .iCsri (fun f => .csrrci f.rd f.imm f.csr)]

/-- Module RV32M (R145). -/
def tableRv32m : List TableRow := [
  row32 0x02000033 0xFE00707F .r (fun f => .mul f.rd f.rs1 f.rs2),
  row32 0x02001033 0xFE00707F .r (fun f => .mulh f.rd f.rs1 f.rs2),
  row32 0x02002033 0xFE00707F .r (fun f => .mulhsu f.rd f.rs1 f.rs2),
  row32 0x02003033 0xFE00707F .r (fun f => .mulhu f.rd f.rs1 f.rs2),
  row32 0x02004033 0xFE00707F .r (fun f => .div f.rd f.rs1 f.rs2),
  row32 0x02005033 0xFE00707F .r (fun f => .divu f.rd f.rs1 f.rs2),
  row32 0x02006033 0xFE00707F .r (fun f => .rem f.rd f.rs1 f.rs2),
  row32 0x02007033 0xFE00707F .r (fun f => .remu f.rd f.rs1 f.rs2)]

/-- Module RV64M (R146). -/
def tableRv64m : List TableRow := [
  (row32 0x0200003B 0xFE00707F .r (fun f => .mulw f.rd f.rs1 f.rs2)).only64,
  (row32 0x0200403B 0xFE00707F .r (fun f => .divw f.rd f.rs1 f.rs2)).only64,
  (row32 0x0200503B 0xFE00707F .r (fun f => .divuw f.rd f.rs1 f.rs2)).only64,
  (row32 0x0200603B 0xFE00707F .r (fun f => .remw f.rd f.rs1 f.rs2)).only64,
  (row32 0x0200703B 0xFE00707F .r (fun f => .remuw f.rd f.rs1 f.rs2)).only64]

/-- Module RV32A (R147). -/
def tableRv32a : List TableRow := [
  row32 0x1000202F 0xF9F0707F .rLr (fun f => .lrW f.rd f.rs1 f.aq f.rl),
  row32 0x1800202F 0xF800707F .rAmo (fun f => .scW f.rd f.rs1 f.rs2 f.aq f.rl),
  row32 0x0800202F 0xF800707F .rAmo (fun f => .amoswapW f.rd f.rs1 f.rs2 f.aq f.rl),
  row32 0x0000202F 0xF800707F .rAmo (fun f => .amoaddW f.rd f.rs1 f.rs2 f.aq f.rl),
  row32 0x2000202F 0xF800707F .rAmo (fun f => .amoxorW f.rd f.rs1 f.rs2 f.aq f.rl),
  row32 0x6000202F 0xF800707F .rAmo (fun f => .amoandW f.rd f.rs1 f.rs2 f.aq f.rl),
  row32 0x4000202F 0xF800707F .rAmo (fun f => .amoorW f.rd f.rs1 f.rs2 f.aq f.rl),
  row32 0x8000202F 0xF800707F .rAmo (fun f => .amominW f.rd f.rs1 f.rs2 f.aq f.rl),
  row32 0xA000202F 0xF800707F .rAmo (fun f => .amomaxW f.rd f.rs1 f.rs2 f.aq f.rl),
  row32 0xC000202F 0xF800707F .rAmo (fun f => .amominuW f.rd f.rs1 f.rs2 f.aq f.rl),
  row32 0xE000202F 0xF800707F .rAmo (fun f => .amomaxuW f.rd f.rs1 f.rs2 f.aq f.rl)]

/-- Module RV64A (R148). -/
def tableRv64a : List TableRow := [
  (row32 0x1000302F 0xF9F0707F .rLr (fun f => .lrD f.rd f.rs1 f.aq f.rl)).only64,
  (row32 0x1800302F 0xF800707F .rAmo (fun f => .scD f.rd f.rs1 f.rs2 f.aq f.rl)).only64,
  (row32 0x0800302F 0xF800707F .rAmo (fun f => .amoswapD f.rd f.rs1 f.rs2 f.aq f.rl)).only64,
  (row32 0x0000302F 0xF800707F .rAmo (fun f => .amoaddD f.rd f.rs1 f.rs2 f.aq f.rl)).only64,
  (row32 0x2000302F 0xF800707F .rAmo (fun f => .amoxorD f.rd f.rs1 f.rs2 f.aq f.rl)).only64,
  (row32 0x6000302F 0xF800707F .rAmo (fun f => .amoandD f.rd f.rs1 f.rs2 f.aq f.rl)).only64,
  (row32 0x4000302F 0xF800707F .rAmo (fun f => .amoorD f.rd f.rs1 f.rs2 f.aq f.rl)).only64,
  (row32 0x8000302F 0xF800707F .rAmo (fun f => .amominD f.rd f.rs1 f.rs2 f.aq f.rl)).only64,
  (row32 0xA000302F 0xF800707F .rAmo (fun f => .amomaxD f.rd f.rs1 f.rs2 f.aq f.rl)).only64,
  (row32 0xC000302F 0xF800707F .rAmo (fun f => .amominuD f.rd f.rs1 f.rs2 f.aq f.rl)).only64,
  (row32 0xE000302F 0xF800707F .rAmo (fun f => .amomaxuD f.rd f.rs1 f.rs2 f.aq f.rl)).only64]

/-- Module RV32F (R149). -/
def tableRv32f : List TableRow := [
  row32 0x00002007 0x0000707F .i (fun f => .flw f.rd f.rs1 f.imm),
  row32 0x00002027 0x0000707F .s (fun f => .fsw f.rs1 f.rs2 f.imm),
  row32 0x00000043 0x0600007F .r4Rm (fun f => .fmaddS f.rd f.rs1 f.rs2 f.rs3 f.rm),
  row32 0x00000047 0x0600007F .r4Rm (fun f => .fmsubS f.rd f.rs1 f.rs2 f.rs3 f.rm),
  row32 0x0000004B 0x0600007F .r4Rm (fun f => .fnmsubS f.rd f.rs1 f.rs2 f.rs3 f.rm),
  row32 0x0000004F 0x0600007F .r4Rm (fun f => .fnmaddS f.rd f.rs1 f.rs2 f.rs3 f.rm),
  row32 0x00000053 0xFE00007F .rRm (fun f => .faddS f.rd f.rs1 f.rs2 f.rm),
  row32 0x08000053 0xFE00007F .rRm (fun f => .fsubS f.rd f.rs1 f.rs2 f.rm),
  row32 0x10000053 0xFE00007F .rRm (fun f => .fmulS f.rd f.rs1 f.rs2 f.rm),
  row32 0x18000053 0xFE00007F .rRm (fun f => .fdivS f.rd f.rs1 f.rs2 f.rm),
  row32 0x58000053 0xFFF0007F .r2Rm (fun f => .fsqrtS f.rd f.rs1 f.rm),
  row32 0x20000053 0xFE00707F .r (fun f => .fsgnjS f.rd f.rs1 f.rs2),
  row32 0x20001053 0xFE00707F .r (fun f => .fsgnjnS f.rd f.rs1 f.rs2),
  row32 0x20002053 0xFE00707F .r (fun f => .fsgnjxS f.rd f.rs1 f.rs2),
  row32 0x28000053 0xFE00707F .r (fun f => .fminS f.rd f.rs1 f.rs2),
  row32 0x28001053 0xFE00707F .r (fun f => .fmaxS f.rd f.rs1 f.rs2),
  row32 0xA0002053 0xFE00707F .r (fun f => .feqS f.rd f.rs1 f.rs2),
  row32 0xA0001053 0xFE00707F .r (fun f => .fltS f.rd f.rs1 f.rs2),
  row32 0xA0000053 0xFE00707F .r (fun f => .fleS f.rd f.rs1 f.rs2),
  row32 0xE0001053 0xFFF0707F .r2 (fun f => .fclassS f.rd f.rs1),
  row32 0xC0000053 0xFFF0007F .r2Rm (fun f => .fcvtWS f.rd f.rs1 f.rm),
  row32 0xC0100053 0xFFF0007F .r2Rm (fun f => .fcvtWUS f.rd f.rs1 f.rm),
  row32 0xD0000053 0xFFF0007F .r2Rm (fun f => .fcvtSW f.rd f.rs1 f.rm),
  row32 0xD0100053 0xFFF0007F .r2Rm (fun f => .fcvtSWU f.rd f.rs1 f.rm),
  row32 0xE0000053 0xFFF0707F .r2 (fun f => .fmvXW f.rd f.rs1),
  row32 0xF0000053 0xFFF0707F .r2 (fun f => .fmvWX f.rd f.rs1)]

/-- Module RV64F (R150). -/
def tableRv64f : List TableRow := [
  (row32 0xC0200053 0xFFF0007F .r2Rm (fun f => .fcvtLS f.rd f.rs1 f.rm)).only64,
  (row32 0xC0300053 0xFFF0007F .r2Rm (fun f => .fcvtLUS f.rd f.rs1 f.rm)).only64,
  (row32 0xD0200053 0xFFF0007F .r2Rm (fun f => .fcvtSL f.rd f.rs1 f.rm)).only64,
  (row32 0xD0300053 0xFFF0007F .r2Rm (fun f => .fcvtSLU f.rd f.rs1 f.rm)).only64]

/-- Module RV32D (R151). -/
def tableRv32d : List TableRow := [
  row32 0x00003007 0x0000707F .i (fun f => .fld f.rd f.rs1 f.imm),
  row32 0x00003027 0x0000707F .s (fun f => .fsd f.rs1 f.rs2 f.imm),
  row32 0x02000043 0x0600007F .r4Rm (fun f => .fmaddD f.rd f.rs1 f.rs2 f.rs3 f.rm),
  row32 0x02000047 0x0600007F .r4Rm (fun f => .fmsubD f.rd f.rs1 f.rs2 f.rs3 f.rm),
  row32 0x0200004B 0x0600007F .r4Rm (fun f => .fnmsubD f.rd f.rs1 f.rs2 f.rs3 f.rm),
  row32 0x0200004F 0x0600007F .r4Rm (fun f => .fnmaddD f.rd f.rs1 f.rs2 f.rs3 f.rm),
  row32 0x02000053 0xFE00007F .rRm (fun f => .faddD f.rd f.rs1 f.rs2 f.rm),
  row32 0x0A000053 0xFE00007F .rRm (fun f => .fsubD f.rd f.rs1 f.rs2 f.rm),
  row32 0x12000053 0xFE00007F .rRm (fun f => .fmulD f.rd f.rs1 f.rs2 f.rm),
  row32 0x1A000053 0xFE00007F .rRm (fun f => .fdivD f.rd f.rs1 f.rs2 f.rm),
  row32 0x5A000053 0xFFF0007F .r2Rm (fun f => .fsqrtD f.rd f.rs1 f.rm),
  row32 0x22000053 0xFE00707F .r (fun f => .fsgnjD f.rd f.rs1 f.rs2),
  row32 0x22001053 0xFE00707F .r (fun f => .fsgnjnD f.rd f.rs1 f.rs2),
  row32 0x22002053 0xFE00707F .r (fun f => .fsgnjxD f.rd f.rs1 f.rs2),
  row32 0x2A000053 0xFE00707F .r (fun f => .fminD f.rd f.rs1 f.rs2),
  row32 0x2A001053 0xFE00707F .r (fun f => .fmaxD f.rd f.rs1 f.rs2),
  row32 0x40100053 0xFFF0007F .r2Rm (fun f => .fcvtSD f.rd f.rs1 f.rm),
  row32 0x42000053 0xFFF0007F .r2Rm (fun f => .fcvtDS f.rd f.rs1 f.rm),
  row32 0xA2002053 0xFE00707F .r (fun f => .feqD f.rd f.rs1 f.rs2),
  row32 0xA2001053 0xFE00707F .r (fun f => .fltD f.rd f.rs1 f.rs2),
  row32 0xA2000053 0xFE00707F .r (fun f => .fleD f.rd f.rs1 f.rs2),
  row32 0xE2001053 0xFFF0707F .r2 (fun f => .fclassD f.rd f.rs1),
  row32 0xC2000053 0xFFF0007F .r2Rm (fun f => .fcvtWD f.rd f.rs1 f.rm),
  row32 0xC2100053 0xFFF0007F .r2Rm (fun f => .fcvtWUD f.rd f.rs1 f.rm),
  row32 0xD2000053 0xFFF0007F .r2Rm (fun f => .fcvtDW f.rd f.rs1 f.rm),
  row32 0xD2100053 0xFFF0007F .r2Rm (fun f => .fcvtDWU f.rd f.rs1 f.rm)]

/-- Module RV64D (R152). -/
def tableRv64d : List TableRow := [
  (row32 0xC2200053 0xFFF0007F .r2Rm (fun f => .fcvtLD f.rd f.rs1 f.rm)).only64,
  (row32 0xC2300053 0xFFF0007F .r2Rm (fun f => .fcvtLUD f.rd f.rs1 f.rm)).only64,
  (row32 0xE2000053 0xFFF0707F .r2 (fun f => .fmvXD f.rd f.rs1)).only64,
  (row32 0xD2200053 0xFFF0007F .r2Rm (fun f => .fcvtDL f.rd f.rs1 f.rm)).only64,
  (row32 0xD2300053 0xFFF0007F .r2Rm (fun f => .fcvtDLU f.rd f.rs1 f.rm)).only64,
  (row32 0xF2000053 0xFFF0707F .r2 (fun f => .fmvDX f.rd f.rs1)).only64]

/-- Module Priv (R153). -/
def tablePriv : List TableRow := [
  row32 0x10200073 0xFFFFFFFF .none (fun _ => .sret),
  row32 0x30200073 0xFFFFFFFF .none (fun _ => .mret),
  row32 0x10500073 0xFFFFFFFF .none (fun _ => .wfi),
  row32 0x12000073 0xFE007FFF .rS (fun f => .sfenceVma f.rs1 f.rs2)]

/-- Module RVC (R154). -/
def tableRvc : List TableRow := [
  row16 0x0000 0xE003 .ciw (fun f => .cAddi4spn f.rd f.imm),
  row16 0x2000 0xE003 .clD (fun f => .cFld f.rd f.rs1 f.imm),
  row16 0x4000 0xE003 .clW (fun f => .cLw f.rd f.rs1 f.imm),
  (row16 0x6000 0xE003 .clW (fun f => .cFlw f.rd f.rs1 f.imm)).only32,
  (row16 0x6000 0xE003 .clD (fun f => .cLd f.rd f.rs1 f.imm)).only64,
  row16 0xA000 0xE003 .csD (fun f => .cFsd f.rs1 f.rs2 f.imm),
  row16 0xC000 0xE003 .csW (fun f => .cSw f.rs1 f.rs2 f.imm),
  (row16 0xE000 0xE003 .csW (fun f => .cFsw f.rs1 f.rs2 f.imm)).only32,
  (row16 0xE000 0xE003 .csD (fun f => .cSd f.rs1 f.rs2 f.imm)).only64,
  row16 0x0001 0xFFFF .none (fun _ => .cNop),
  row16 0x0001 0xE003 .ci (fun f => .cAddi f.rd f.imm),
  (row16 0x2001 0xE003 .cj (fun f => .cJal f.imm)).only32,
  (row16 0x2001 0xE003 .ci (fun f => .cAddiw f.rd f.imm)).only64,
  row16 0x4001 0xE003 .ci (fun f => .cLi f.rd f.imm),
  row16 0x6101 0xEF83 .ciAddi16sp (fun f => .cAddi16sp f.imm),
  row16 0x6001 0xE003 .ciLui (fun f => .cLui f.rd f.imm),
  (row16 0x8001 0xFC03 .cbSh (fun f => .cSrli32 f.rd f.shamt)).only32,
  (row16 0x8001 0xEC03 .cbSh (fun f => .cSrli64 f.rd f.shamt)).only64,
  (row16 0x8401 0xFC03 .cbSh (fun f => .cSrai32 f.rd f.shamt)).only32,
  (row16 0x8401 0xEC03 .cbSh (fun f => .cSrai64 f.rd f.shamt)).only64,
  row16 0x8801 0xEC03 .cbAndi (fun f => .cAndi f.rd f.imm),
  row16 0x8C01 0xFC63 .ca (fun f => .cSub f.rd f.rs2),
  row16 0x8C21 0xFC63 .ca (fun f => .cXor f.rd f.rs2),
  row16 0x8C41 0xFC63 .ca (fun f => .cOr f.rd f.rs2),
  row16 0x8C61 0xFC63 .ca (fun f => .cAnd f.rd f.rs2),
  (row16 0x9C01 0xFC63 .ca (fun f => .cSubw f.rd f.rs2)).only64,
  (row16 0x9C21 0xFC63 .ca (fun f => .cAddw f.rd f.rs2)).only64,
  row16 0xA001 0xE003 .cj (fun f => .cJ f.imm),
  row16 0xC001 0xE003 .cbBr (fun f => .cBeqz f.rs1 f.imm),
  row16 0xE001 0xE003 .cbBr (fun f => .cBnez f.rs1 f.imm),
  (row16 0x0002 0xF003 .ciSh (fun f => .cSlli32 f.rd f.shamt)).only32,
  (row16 0x0002 0xE003 .ciSh (fun f => .cSlli64 f.rd f.shamt)).only64,
  row16 0x2002 0xE003 .ciLdsp (fun f => .cFldsp f.rd f.imm),
  row16 0x4002 0xE003 .ciLwsp (fun f => .cLwsp f.rd f.imm),
  (row16 0x6002 0xE003 .ciLwsp (fun f => .cFlwsp f.rd f.imm)).only32,
  (row16 0x6002 0xE003 .ciLdsp (fun f => .cLdsp f.rd f.imm)).only64,
  row16 0x9002 0xFFFF .none (fun _ => .cEbreak),
  row16 0x8002 0xF07F .crJr (fun f => .cJr f.rs1),
  row16 0x8002 0xF003 .cr (fun f => .cMv f.rd f.rs2),
  row16 0x9002 0xF07F .crJr (fun f => .cJalr f.rs1),
  row16 0x9002 0xF003 .cr (fun f => .cAdd f.rd f.rs2),
  row16 0xA002 0xE003 .cssSdsp (fun f => .cFsdsp f.rs2 f.imm),
  row16 0xC002 0xE003 .cssSwsp (fun f => .cSwsp f.rs2 f.imm),
  (row16 0xE002 0xE003 .cssSwsp (fun f => .cFswsp f.rs2 f.imm)).only32,
  (row16 0xE002 0xE003 .cssSdsp (fun f => .cSdsp f.rs2 f.imm)).only64]

/-- The reference composition: the modules in order (R138). -/
def opcodeTable : List TableRow :=
  tableRv32i ++ tableRv64i ++ tableZifencei ++ tableZicsr ++ tableRv32m ++
  tableRv64m ++ tableRv32a ++ tableRv64a ++ tableRv32f ++ tableRv64f ++
  tableRv32d ++ tableRv64d ++ tablePriv ++ tableRvc

/-- The rows a reference catalog holds, in ROM order: the table's 32-bit rows all stand before its 16-bit rows, so that filtering
by XLEN leaves R75's order. Empty for XLEN = 128, which has no reference catalog (R140). -/
def referenceRows (x : XLen) : List TableRow := opcodeTable.filter (·.admits x)

/-- The reference catalog as ROM contents (R138). -/
def referenceRom (x : XLen) : List Entry := (referenceRows x).map TableRow.entry

/-- `EXT_SET` of both reference catalogs (R22). -/
def referenceExtSet : BitVec 32 := 0x1C00112D#32

/-! ## The decoder -/

/-- Why a word or a byte string is no instruction of a reference catalog. -/
inductive DecodeError where
  | noMatch    -- no entry of the word's width class matches: the block's NoMatch (R166)
  | truncated  -- fewer bytes than the instruction has (R40)
  | noCatalog  -- XLEN = 128 has no reference catalog (R140)
deriving DecidableEq, Repr

/-- The instruction a word stands for under the reference catalog of `x`: the first row that matches, with the operands the row's
tag extracts from the truncated word (R86, R88, R95). Total: every other word is refused by name. -/
def decodeWord (x : XLen) (w : Word) : Except DecodeError Instr :=
  match (referenceRows x).find? (fun r => entryMatches r.entry w) with
  | some r => .ok (r.make (tagFields r.tag (truncWord w)))
  | none => .error (if x = .rv128 then .noCatalog else .noMatch)

/-- The word a consumer builds from the bytes at an address, little-endian; missing bytes of a 2-byte tail read as 0 (R40). -/
def wordOfBytes (b0 b1 b2 b3 : Byte) : Word := b3 ++ b2 ++ b1 ++ b0

/-- The instruction at the head of a byte string, with the bytes after it (R40, R155). -/
def decodeBytes (x : XLen) : List Byte → Except DecodeError (Instr × List Byte)
  | b0 :: b1 :: rest =>
    if isLen4 (wordOfBytes b0 b1 0#8 0#8) then
      match rest with
      | b2 :: b3 :: rest' => (decodeWord x (wordOfBytes b0 b1 b2 b3)).map (·, rest')
      | _ => .error .truncated
    else (decodeWord x (wordOfBytes b0 b1 0#8 0#8)).map (·, rest)
  | _ => .error .truncated

/-- The XLEN whose reference catalog holds the word: `x` itself where it does, else the other one; `x` where neither does. -/
def buildHolding (x : XLen) (w : Word) : XLen :=
  if (decodeWord x w).toOption.isSome then x
  else if (decodeWord .rv32 w).toOption.isSome then .rv32
  else if (decodeWord .rv64 w).toOption.isSome then .rv64
  else x

/-- The instruction read from a table row's bits: the catalog of `Config.xlen` first, then the other XLEN's, for the rows that only
it holds (log 2). -/
def decodeTableWord (nbits w : Nat) : Option Instr :=
  let word := BitVec.ofNat 32 (w % 2 ^ nbits)
  (decodeWord (buildHolding Config.xlen word) word).toOption

/-! ## The encoder, from the formats of R52 and R54 and the layout strings of 44_reference_catalog.md

A helper lays out one format from its most significant part down, as its layout string does. -/

def encR (f7 : BitVec 7) (rs2 rs1 : Reg) (f3 : BitVec 3) (rd : Reg) (op : BitVec 7) : Word :=
  f7 ++ rs2 ++ rs1 ++ f3 ++ rd ++ op

def encR4 (rs3 : Reg) (f2 : BitVec 2) (rs2 rs1 : Reg) (rm : BitVec 3) (rd : Reg) (op : BitVec 7) : Word :=
  rs3 ++ f2 ++ rs2 ++ rs1 ++ rm ++ rd ++ op

def encAmo (f5 : BitVec 5) (aq rl : Bool) (rs2 rs1 : Reg) (f3 : BitVec 3) (rd : Reg) (op : BitVec 7) : Word :=
  f5 ++ BitVec.ofBool aq ++ BitVec.ofBool rl ++ rs2 ++ rs1 ++ f3 ++ rd ++ op

def encCsr (csr : BitVec 12) (rs1 : BitVec 5) (f3 : BitVec 3) (rd : Reg) (op : BitVec 7) : Word :=
  csr ++ rs1 ++ f3 ++ rd ++ op

def encI (imm : Word) (rs1 : Reg) (f3 : BitVec 3) (rd : Reg) (op : BitVec 7) : Word :=
  imm.extractLsb 11 0 ++ rs1 ++ f3 ++ rd ++ op

def encSh5 (f7 : BitVec 7) (shamt : BitVec 6) (rs1 : Reg) (f3 : BitVec 3) (rd : Reg) (op : BitVec 7) : Word :=
  f7 ++ shamt.extractLsb 4 0 ++ rs1 ++ f3 ++ rd ++ op

def encSh6 (f6 : BitVec 6) (shamt : BitVec 6) (rs1 : Reg) (f3 : BitVec 3) (rd : Reg) (op : BitVec 7) : Word :=
  f6 ++ shamt ++ rs1 ++ f3 ++ rd ++ op

def encS (imm : Word) (rs2 rs1 : Reg) (f3 : BitVec 3) (op : BitVec 7) : Word :=
  imm.extractLsb 11 5 ++ rs2 ++ rs1 ++ f3 ++ imm.extractLsb 4 0 ++ op

def encB (imm : Word) (rs2 rs1 : Reg) (f3 : BitVec 3) (op : BitVec 7) : Word :=
  imm.extractLsb 12 12 ++ imm.extractLsb 10 5 ++ rs2 ++ rs1 ++ f3 ++ imm.extractLsb 4 1 ++ imm.extractLsb 11 11 ++ op

def encU (imm : Word) (rd : Reg) (op : BitVec 7) : Word :=
  imm.extractLsb 31 12 ++ rd ++ op

def encJ (imm : Word) (rd : Reg) (op : BitVec 7) : Word :=
  imm.extractLsb 20 20 ++ imm.extractLsb 10 1 ++ imm.extractLsb 11 11 ++ imm.extractLsb 19 12 ++ rd ++ op

/-- A 16-bit instruction as a word: the upper half is 0 (R86). -/
def compressed (c : Half) : Word := 0#16 ++ c

/-- The 3-bit field that names one of x8 to x15 (R116). -/
def prime (r : Reg) : BitVec 3 := r.extractLsb 2 0

def encCR (f3 : BitVec 3) (b12 : BitVec 1) (r rs2 : Reg) (op : BitVec 2) : Word :=
  compressed (f3 ++ b12 ++ r ++ rs2 ++ op)

def encCI (f3 : BitVec 3) (b12 : BitVec 1) (rd : Reg) (low : BitVec 5) (op : BitVec 2) : Word :=
  compressed (f3 ++ b12 ++ rd ++ low ++ op)

def encCSS (f3 : BitVec 3) (imm : BitVec 6) (rs2 : Reg) (op : BitVec 2) : Word :=
  compressed (f3 ++ imm ++ rs2 ++ op)

def encCIW (f3 : BitVec 3) (imm : BitVec 8) (rd : Reg) (op : BitVec 2) : Word :=
  compressed (f3 ++ imm ++ prime rd ++ op)

def encCL (f3 : BitVec 3) (high : BitVec 3) (rs1 : Reg) (low : BitVec 2) (r : Reg) (op : BitVec 2) : Word :=
  compressed (f3 ++ high ++ prime rs1 ++ low ++ prime r ++ op)

def encCA (f3 : BitVec 3) (b12 : BitVec 1) (f2 : BitVec 2) (rd : Reg) (g2 : BitVec 2) (rs2 : Reg) (op : BitVec 2) : Word :=
  compressed (f3 ++ b12 ++ f2 ++ prime rd ++ g2 ++ prime rs2 ++ op)

def encCB (f3 : BitVec 3) (high : BitVec 3) (r : Reg) (low : BitVec 5) (op : BitVec 2) : Word :=
  compressed (f3 ++ high ++ prime r ++ low ++ op)

def encCJ (f3 : BitVec 3) (imm : Word) (op : BitVec 2) : Word :=
  compressed (f3 ++ imm.extractLsb 11 11 ++ imm.extractLsb 4 4 ++ imm.extractLsb 9 8 ++ imm.extractLsb 10 10 ++
    imm.extractLsb 6 6 ++ imm.extractLsb 7 7 ++ imm.extractLsb 3 1 ++ imm.extractLsb 5 5 ++ op)

/-- The word of an instruction: one arm a layout string. A 16-bit instruction's upper half is 0. -/
def encode : Instr → Word
  -- module RV32I (R141)
  | .lui rd imm => encU imm rd 0b0110111#7
  | .auipc rd imm => encU imm rd 0b0010111#7
  | .jal rd imm => encJ imm rd 0b1101111#7
  | .jalr rd rs1 imm => encI imm rs1 0b000#3 rd 0b1100111#7
  | .beq rs1 rs2 imm => encB imm rs2 rs1 0b000#3 0b1100011#7
  | .bne rs1 rs2 imm => encB imm rs2 rs1 0b001#3 0b1100011#7
  | .blt rs1 rs2 imm => encB imm rs2 rs1 0b100#3 0b1100011#7
  | .bge rs1 rs2 imm => encB imm rs2 rs1 0b101#3 0b1100011#7
  | .bltu rs1 rs2 imm => encB imm rs2 rs1 0b110#3 0b1100011#7
  | .bgeu rs1 rs2 imm => encB imm rs2 rs1 0b111#3 0b1100011#7
  | .lb rd rs1 imm => encI imm rs1 0b000#3 rd 0b0000011#7
  | .lh rd rs1 imm => encI imm rs1 0b001#3 rd 0b0000011#7
  | .lw rd rs1 imm => encI imm rs1 0b010#3 rd 0b0000011#7
  | .lbu rd rs1 imm => encI imm rs1 0b100#3 rd 0b0000011#7
  | .lhu rd rs1 imm => encI imm rs1 0b101#3 rd 0b0000011#7
  | .sb rs1 rs2 imm => encS imm rs2 rs1 0b000#3 0b0100011#7
  | .sh rs1 rs2 imm => encS imm rs2 rs1 0b001#3 0b0100011#7
  | .sw rs1 rs2 imm => encS imm rs2 rs1 0b010#3 0b0100011#7
  | .addi rd rs1 imm => encI imm rs1 0b000#3 rd 0b0010011#7
  | .slti rd rs1 imm => encI imm rs1 0b010#3 rd 0b0010011#7
  | .sltiu rd rs1 imm => encI imm rs1 0b011#3 rd 0b0010011#7
  | .xori rd rs1 imm => encI imm rs1 0b100#3 rd 0b0010011#7
  | .ori rd rs1 imm => encI imm rs1 0b110#3 rd 0b0010011#7
  | .andi rd rs1 imm => encI imm rs1 0b111#3 rd 0b0010011#7
  | .slli32 rd rs1 shamt => encSh5 0b0000000#7 shamt rs1 0b001#3 rd 0b0010011#7
  | .srli32 rd rs1 shamt => encSh5 0b0000000#7 shamt rs1 0b101#3 rd 0b0010011#7
  | .srai32 rd rs1 shamt => encSh5 0b0100000#7 shamt rs1 0b101#3 rd 0b0010011#7
  | .add rd rs1 rs2 => encR 0b0000000#7 rs2 rs1 0b000#3 rd 0b0110011#7
  | .sub rd rs1 rs2 => encR 0b0100000#7 rs2 rs1 0b000#3 rd 0b0110011#7
  | .sll rd rs1 rs2 => encR 0b0000000#7 rs2 rs1 0b001#3 rd 0b0110011#7
  | .slt rd rs1 rs2 => encR 0b0000000#7 rs2 rs1 0b010#3 rd 0b0110011#7
  | .sltu rd rs1 rs2 => encR 0b0000000#7 rs2 rs1 0b011#3 rd 0b0110011#7
  | .xor rd rs1 rs2 => encR 0b0000000#7 rs2 rs1 0b100#3 rd 0b0110011#7
  | .srl rd rs1 rs2 => encR 0b0000000#7 rs2 rs1 0b101#3 rd 0b0110011#7
  | .sra rd rs1 rs2 => encR 0b0100000#7 rs2 rs1 0b101#3 rd 0b0110011#7
  | .or rd rs1 rs2 => encR 0b0000000#7 rs2 rs1 0b110#3 rd 0b0110011#7
  | .and rd rs1 rs2 => encR 0b0000000#7 rs2 rs1 0b111#3 rd 0b0110011#7
  | .fence rd rs1 imm => encI imm rs1 0b000#3 rd 0b0001111#7
  | .ecall => encCsr 0b000000000000#12 0b00000#5 0b000#3 0b00000#5 0b1110011#7
  | .ebreak => encCsr 0b000000000001#12 0b00000#5 0b000#3 0b00000#5 0b1110011#7
  -- module RV64I (R142)
  | .slli64 rd rs1 shamt => encSh6 0b000000#6 shamt rs1 0b001#3 rd 0b0010011#7
  | .srli64 rd rs1 shamt => encSh6 0b000000#6 shamt rs1 0b101#3 rd 0b0010011#7
  | .srai64 rd rs1 shamt => encSh6 0b010000#6 shamt rs1 0b101#3 rd 0b0010011#7
  | .lwu rd rs1 imm => encI imm rs1 0b110#3 rd 0b0000011#7
  | .ld rd rs1 imm => encI imm rs1 0b011#3 rd 0b0000011#7
  | .sd rs1 rs2 imm => encS imm rs2 rs1 0b011#3 0b0100011#7
  | .addiw rd rs1 imm => encI imm rs1 0b000#3 rd 0b0011011#7
  | .slliw rd rs1 shamt => encSh5 0b0000000#7 shamt rs1 0b001#3 rd 0b0011011#7
  | .srliw rd rs1 shamt => encSh5 0b0000000#7 shamt rs1 0b101#3 rd 0b0011011#7
  | .sraiw rd rs1 shamt => encSh5 0b0100000#7 shamt rs1 0b101#3 rd 0b0011011#7
  | .addw rd rs1 rs2 => encR 0b0000000#7 rs2 rs1 0b000#3 rd 0b0111011#7
  | .subw rd rs1 rs2 => encR 0b0100000#7 rs2 rs1 0b000#3 rd 0b0111011#7
  | .sllw rd rs1 rs2 => encR 0b0000000#7 rs2 rs1 0b001#3 rd 0b0111011#7
  | .srlw rd rs1 rs2 => encR 0b0000000#7 rs2 rs1 0b101#3 rd 0b0111011#7
  | .sraw rd rs1 rs2 => encR 0b0100000#7 rs2 rs1 0b101#3 rd 0b0111011#7
  -- module Zifencei (R143)
  | .fenceI => encCsr 0b000000000000#12 0b00000#5 0b001#3 0b00000#5 0b0001111#7
  -- module Zicsr (R144)
  | .csrrw rd rs1 csr => encCsr csr rs1 0b001#3 rd 0b1110011#7
  | .csrrs rd rs1 csr => encCsr csr rs1 0b010#3 rd 0b1110011#7
  | .csrrc rd rs1 csr => encCsr csr rs1 0b011#3 rd 0b1110011#7
  | .csrrwi rd imm csr => encCsr csr (imm.extractLsb 4 0) 0b101#3 rd 0b1110011#7
  | .csrrsi rd imm csr => encCsr csr (imm.extractLsb 4 0) 0b110#3 rd 0b1110011#7
  | .csrrci rd imm csr => encCsr csr (imm.extractLsb 4 0) 0b111#3 rd 0b1110011#7
  -- module RV32M (R145)
  | .mul rd rs1 rs2 => encR 0b0000001#7 rs2 rs1 0b000#3 rd 0b0110011#7
  | .mulh rd rs1 rs2 => encR 0b0000001#7 rs2 rs1 0b001#3 rd 0b0110011#7
  | .mulhsu rd rs1 rs2 => encR 0b0000001#7 rs2 rs1 0b010#3 rd 0b0110011#7
  | .mulhu rd rs1 rs2 => encR 0b0000001#7 rs2 rs1 0b011#3 rd 0b0110011#7
  | .div rd rs1 rs2 => encR 0b0000001#7 rs2 rs1 0b100#3 rd 0b0110011#7
  | .divu rd rs1 rs2 => encR 0b0000001#7 rs2 rs1 0b101#3 rd 0b0110011#7
  | .rem rd rs1 rs2 => encR 0b0000001#7 rs2 rs1 0b110#3 rd 0b0110011#7
  | .remu rd rs1 rs2 => encR 0b0000001#7 rs2 rs1 0b111#3 rd 0b0110011#7
  -- module RV64M (R146)
  | .mulw rd rs1 rs2 => encR 0b0000001#7 rs2 rs1 0b000#3 rd 0b0111011#7
  | .divw rd rs1 rs2 => encR 0b0000001#7 rs2 rs1 0b100#3 rd 0b0111011#7
  | .divuw rd rs1 rs2 => encR 0b0000001#7 rs2 rs1 0b101#3 rd 0b0111011#7
  | .remw rd rs1 rs2 => encR 0b0000001#7 rs2 rs1 0b110#3 rd 0b0111011#7
  | .remuw rd rs1 rs2 => encR 0b0000001#7 rs2 rs1 0b111#3 rd 0b0111011#7
  -- module RV32A (R147)
  | .lrW rd rs1 aq rl => encAmo 0b00010#5 aq rl 0b00000#5 rs1 0b010#3 rd 0b0101111#7
  | .scW rd rs1 rs2 aq rl => encAmo 0b00011#5 aq rl rs2 rs1 0b010#3 rd 0b0101111#7
  | .amoswapW rd rs1 rs2 aq rl => encAmo 0b00001#5 aq rl rs2 rs1 0b010#3 rd 0b0101111#7
  | .amoaddW rd rs1 rs2 aq rl => encAmo 0b00000#5 aq rl rs2 rs1 0b010#3 rd 0b0101111#7
  | .amoxorW rd rs1 rs2 aq rl => encAmo 0b00100#5 aq rl rs2 rs1 0b010#3 rd 0b0101111#7
  | .amoandW rd rs1 rs2 aq rl => encAmo 0b01100#5 aq rl rs2 rs1 0b010#3 rd 0b0101111#7
  | .amoorW rd rs1 rs2 aq rl => encAmo 0b01000#5 aq rl rs2 rs1 0b010#3 rd 0b0101111#7
  | .amominW rd rs1 rs2 aq rl => encAmo 0b10000#5 aq rl rs2 rs1 0b010#3 rd 0b0101111#7
  | .amomaxW rd rs1 rs2 aq rl => encAmo 0b10100#5 aq rl rs2 rs1 0b010#3 rd 0b0101111#7
  | .amominuW rd rs1 rs2 aq rl => encAmo 0b11000#5 aq rl rs2 rs1 0b010#3 rd 0b0101111#7
  | .amomaxuW rd rs1 rs2 aq rl => encAmo 0b11100#5 aq rl rs2 rs1 0b010#3 rd 0b0101111#7
  -- module RV64A (R148)
  | .lrD rd rs1 aq rl => encAmo 0b00010#5 aq rl 0b00000#5 rs1 0b011#3 rd 0b0101111#7
  | .scD rd rs1 rs2 aq rl => encAmo 0b00011#5 aq rl rs2 rs1 0b011#3 rd 0b0101111#7
  | .amoswapD rd rs1 rs2 aq rl => encAmo 0b00001#5 aq rl rs2 rs1 0b011#3 rd 0b0101111#7
  | .amoaddD rd rs1 rs2 aq rl => encAmo 0b00000#5 aq rl rs2 rs1 0b011#3 rd 0b0101111#7
  | .amoxorD rd rs1 rs2 aq rl => encAmo 0b00100#5 aq rl rs2 rs1 0b011#3 rd 0b0101111#7
  | .amoandD rd rs1 rs2 aq rl => encAmo 0b01100#5 aq rl rs2 rs1 0b011#3 rd 0b0101111#7
  | .amoorD rd rs1 rs2 aq rl => encAmo 0b01000#5 aq rl rs2 rs1 0b011#3 rd 0b0101111#7
  | .amominD rd rs1 rs2 aq rl => encAmo 0b10000#5 aq rl rs2 rs1 0b011#3 rd 0b0101111#7
  | .amomaxD rd rs1 rs2 aq rl => encAmo 0b10100#5 aq rl rs2 rs1 0b011#3 rd 0b0101111#7
  | .amominuD rd rs1 rs2 aq rl => encAmo 0b11000#5 aq rl rs2 rs1 0b011#3 rd 0b0101111#7
  | .amomaxuD rd rs1 rs2 aq rl => encAmo 0b11100#5 aq rl rs2 rs1 0b011#3 rd 0b0101111#7
  -- module RV32F (R149)
  | .flw rd rs1 imm => encI imm rs1 0b010#3 rd 0b0000111#7
  | .fsw rs1 rs2 imm => encS imm rs2 rs1 0b010#3 0b0100111#7
  | .fmaddS rd rs1 rs2 rs3 rm => encR4 rs3 0b00#2 rs2 rs1 rm rd 0b1000011#7
  | .fmsubS rd rs1 rs2 rs3 rm => encR4 rs3 0b00#2 rs2 rs1 rm rd 0b1000111#7
  | .fnmsubS rd rs1 rs2 rs3 rm => encR4 rs3 0b00#2 rs2 rs1 rm rd 0b1001011#7
  | .fnmaddS rd rs1 rs2 rs3 rm => encR4 rs3 0b00#2 rs2 rs1 rm rd 0b1001111#7
  | .faddS rd rs1 rs2 rm => encR 0b0000000#7 rs2 rs1 rm rd 0b1010011#7
  | .fsubS rd rs1 rs2 rm => encR 0b0000100#7 rs2 rs1 rm rd 0b1010011#7
  | .fmulS rd rs1 rs2 rm => encR 0b0001000#7 rs2 rs1 rm rd 0b1010011#7
  | .fdivS rd rs1 rs2 rm => encR 0b0001100#7 rs2 rs1 rm rd 0b1010011#7
  | .fsqrtS rd rs1 rm => encR 0b0101100#7 0b00000#5 rs1 rm rd 0b1010011#7
  | .fsgnjS rd rs1 rs2 => encR 0b0010000#7 rs2 rs1 0b000#3 rd 0b1010011#7
  | .fsgnjnS rd rs1 rs2 => encR 0b0010000#7 rs2 rs1 0b001#3 rd 0b1010011#7
  | .fsgnjxS rd rs1 rs2 => encR 0b0010000#7 rs2 rs1 0b010#3 rd 0b1010011#7
  | .fminS rd rs1 rs2 => encR 0b0010100#7 rs2 rs1 0b000#3 rd 0b1010011#7
  | .fmaxS rd rs1 rs2 => encR 0b0010100#7 rs2 rs1 0b001#3 rd 0b1010011#7
  | .feqS rd rs1 rs2 => encR 0b1010000#7 rs2 rs1 0b010#3 rd 0b1010011#7
  | .fltS rd rs1 rs2 => encR 0b1010000#7 rs2 rs1 0b001#3 rd 0b1010011#7
  | .fleS rd rs1 rs2 => encR 0b1010000#7 rs2 rs1 0b000#3 rd 0b1010011#7
  | .fclassS rd rs1 => encR 0b1110000#7 0b00000#5 rs1 0b001#3 rd 0b1010011#7
  | .fcvtWS rd rs1 rm => encR 0b1100000#7 0b00000#5 rs1 rm rd 0b1010011#7
  | .fcvtWUS rd rs1 rm => encR 0b1100000#7 0b00001#5 rs1 rm rd 0b1010011#7
  | .fcvtSW rd rs1 rm => encR 0b1101000#7 0b00000#5 rs1 rm rd 0b1010011#7
  | .fcvtSWU rd rs1 rm => encR 0b1101000#7 0b00001#5 rs1 rm rd 0b1010011#7
  | .fmvXW rd rs1 => encR 0b1110000#7 0b00000#5 rs1 0b000#3 rd 0b1010011#7
  | .fmvWX rd rs1 => encR 0b1111000#7 0b00000#5 rs1 0b000#3 rd 0b1010011#7
  -- module RV64F (R150)
  | .fcvtLS rd rs1 rm => encR 0b1100000#7 0b00010#5 rs1 rm rd 0b1010011#7
  | .fcvtLUS rd rs1 rm => encR 0b1100000#7 0b00011#5 rs1 rm rd 0b1010011#7
  | .fcvtSL rd rs1 rm => encR 0b1101000#7 0b00010#5 rs1 rm rd 0b1010011#7
  | .fcvtSLU rd rs1 rm => encR 0b1101000#7 0b00011#5 rs1 rm rd 0b1010011#7
  -- module RV32D (R151)
  | .fld rd rs1 imm => encI imm rs1 0b011#3 rd 0b0000111#7
  | .fsd rs1 rs2 imm => encS imm rs2 rs1 0b011#3 0b0100111#7
  | .fmaddD rd rs1 rs2 rs3 rm => encR4 rs3 0b01#2 rs2 rs1 rm rd 0b1000011#7
  | .fmsubD rd rs1 rs2 rs3 rm => encR4 rs3 0b01#2 rs2 rs1 rm rd 0b1000111#7
  | .fnmsubD rd rs1 rs2 rs3 rm => encR4 rs3 0b01#2 rs2 rs1 rm rd 0b1001011#7
  | .fnmaddD rd rs1 rs2 rs3 rm => encR4 rs3 0b01#2 rs2 rs1 rm rd 0b1001111#7
  | .faddD rd rs1 rs2 rm => encR 0b0000001#7 rs2 rs1 rm rd 0b1010011#7
  | .fsubD rd rs1 rs2 rm => encR 0b0000101#7 rs2 rs1 rm rd 0b1010011#7
  | .fmulD rd rs1 rs2 rm => encR 0b0001001#7 rs2 rs1 rm rd 0b1010011#7
  | .fdivD rd rs1 rs2 rm => encR 0b0001101#7 rs2 rs1 rm rd 0b1010011#7
  | .fsqrtD rd rs1 rm => encR 0b0101101#7 0b00000#5 rs1 rm rd 0b1010011#7
  | .fsgnjD rd rs1 rs2 => encR 0b0010001#7 rs2 rs1 0b000#3 rd 0b1010011#7
  | .fsgnjnD rd rs1 rs2 => encR 0b0010001#7 rs2 rs1 0b001#3 rd 0b1010011#7
  | .fsgnjxD rd rs1 rs2 => encR 0b0010001#7 rs2 rs1 0b010#3 rd 0b1010011#7
  | .fminD rd rs1 rs2 => encR 0b0010101#7 rs2 rs1 0b000#3 rd 0b1010011#7
  | .fmaxD rd rs1 rs2 => encR 0b0010101#7 rs2 rs1 0b001#3 rd 0b1010011#7
  | .fcvtSD rd rs1 rm => encR 0b0100000#7 0b00001#5 rs1 rm rd 0b1010011#7
  | .fcvtDS rd rs1 rm => encR 0b0100001#7 0b00000#5 rs1 rm rd 0b1010011#7
  | .feqD rd rs1 rs2 => encR 0b1010001#7 rs2 rs1 0b010#3 rd 0b1010011#7
  | .fltD rd rs1 rs2 => encR 0b1010001#7 rs2 rs1 0b001#3 rd 0b1010011#7
  | .fleD rd rs1 rs2 => encR 0b1010001#7 rs2 rs1 0b000#3 rd 0b1010011#7
  | .fclassD rd rs1 => encR 0b1110001#7 0b00000#5 rs1 0b001#3 rd 0b1010011#7
  | .fcvtWD rd rs1 rm => encR 0b1100001#7 0b00000#5 rs1 rm rd 0b1010011#7
  | .fcvtWUD rd rs1 rm => encR 0b1100001#7 0b00001#5 rs1 rm rd 0b1010011#7
  | .fcvtDW rd rs1 rm => encR 0b1101001#7 0b00000#5 rs1 rm rd 0b1010011#7
  | .fcvtDWU rd rs1 rm => encR 0b1101001#7 0b00001#5 rs1 rm rd 0b1010011#7
  -- module RV64D (R152)
  | .fcvtLD rd rs1 rm => encR 0b1100001#7 0b00010#5 rs1 rm rd 0b1010011#7
  | .fcvtLUD rd rs1 rm => encR 0b1100001#7 0b00011#5 rs1 rm rd 0b1010011#7
  | .fmvXD rd rs1 => encR 0b1110001#7 0b00000#5 rs1 0b000#3 rd 0b1010011#7
  | .fcvtDL rd rs1 rm => encR 0b1101001#7 0b00010#5 rs1 rm rd 0b1010011#7
  | .fcvtDLU rd rs1 rm => encR 0b1101001#7 0b00011#5 rs1 rm rd 0b1010011#7
  | .fmvDX rd rs1 => encR 0b1111001#7 0b00000#5 rs1 0b000#3 rd 0b1010011#7
  -- module Priv (R153)
  | .sret => encR 0b0001000#7 0b00010#5 0b00000#5 0b000#3 0b00000#5 0b1110011#7
  | .mret => encR 0b0011000#7 0b00010#5 0b00000#5 0b000#3 0b00000#5 0b1110011#7
  | .wfi => encR 0b0001000#7 0b00101#5 0b00000#5 0b000#3 0b00000#5 0b1110011#7
  | .sfenceVma rs1 rs2 => encR 0b0001001#7 rs2 rs1 0b000#3 0b00000#5 0b1110011#7
  -- module RVC (R154)
  | .cAddi4spn rd imm => encCIW 0b000#3 (imm.extractLsb 5 4 ++ imm.extractLsb 9 6 ++ imm.extractLsb 2 2 ++ imm.extractLsb 3 3) rd 0b00#2
  | .cFld rd rs1 imm => encCL 0b001#3 (imm.extractLsb 5 3) rs1 (imm.extractLsb 7 6) rd 0b00#2
  | .cLw rd rs1 imm => encCL 0b010#3 (imm.extractLsb 5 3) rs1 (imm.extractLsb 2 2 ++ imm.extractLsb 6 6) rd 0b00#2
  | .cFlw rd rs1 imm => encCL 0b011#3 (imm.extractLsb 5 3) rs1 (imm.extractLsb 2 2 ++ imm.extractLsb 6 6) rd 0b00#2
  | .cLd rd rs1 imm => encCL 0b011#3 (imm.extractLsb 5 3) rs1 (imm.extractLsb 7 6) rd 0b00#2
  | .cFsd rs1 rs2 imm => encCL 0b101#3 (imm.extractLsb 5 3) rs1 (imm.extractLsb 7 6) rs2 0b00#2
  | .cSw rs1 rs2 imm => encCL 0b110#3 (imm.extractLsb 5 3) rs1 (imm.extractLsb 2 2 ++ imm.extractLsb 6 6) rs2 0b00#2
  | .cFsw rs1 rs2 imm => encCL 0b111#3 (imm.extractLsb 5 3) rs1 (imm.extractLsb 2 2 ++ imm.extractLsb 6 6) rs2 0b00#2
  | .cSd rs1 rs2 imm => encCL 0b111#3 (imm.extractLsb 5 3) rs1 (imm.extractLsb 7 6) rs2 0b00#2
  | .cNop => encCI 0b000#3 0b0#1 0b00000#5 0b00000#5 0b01#2
  | .cAddi rd imm => encCI 0b000#3 (imm.extractLsb 5 5) rd (imm.extractLsb 4 0) 0b01#2
  | .cJal imm => encCJ 0b001#3 imm 0b01#2
  | .cAddiw rd imm => encCI 0b001#3 (imm.extractLsb 5 5) rd (imm.extractLsb 4 0) 0b01#2
  | .cLi rd imm => encCI 0b010#3 (imm.extractLsb 5 5) rd (imm.extractLsb 4 0) 0b01#2
  | .cAddi16sp imm => encCI 0b011#3 (imm.extractLsb 9 9) 0b00010#5
      (imm.extractLsb 4 4 ++ imm.extractLsb 6 6 ++ imm.extractLsb 8 7 ++ imm.extractLsb 5 5) 0b01#2
  | .cLui rd imm => encCI 0b011#3 (imm.extractLsb 17 17) rd (imm.extractLsb 16 12) 0b01#2
  | .cSrli32 rd shamt => encCB 0b100#3 (0b0#1 ++ 0b00#2) rd (shamt.extractLsb 4 0) 0b01#2
  | .cSrli64 rd shamt => encCB 0b100#3 ((shamt.extractLsb 5 5) ++ 0b00#2) rd (shamt.extractLsb 4 0) 0b01#2
  | .cSrai32 rd shamt => encCB 0b100#3 (0b0#1 ++ 0b01#2) rd (shamt.extractLsb 4 0) 0b01#2
  | .cSrai64 rd shamt => encCB 0b100#3 ((shamt.extractLsb 5 5) ++ 0b01#2) rd (shamt.extractLsb 4 0) 0b01#2
  | .cAndi rd imm => encCB 0b100#3 (imm.extractLsb 5 5 ++ 0b10#2) rd (imm.extractLsb 4 0) 0b01#2
  | .cSub rd rs2 => encCA 0b100#3 0b0#1 0b11#2 rd 0b00#2 rs2 0b01#2
  | .cXor rd rs2 => encCA 0b100#3 0b0#1 0b11#2 rd 0b01#2 rs2 0b01#2
  | .cOr rd rs2 => encCA 0b100#3 0b0#1 0b11#2 rd 0b10#2 rs2 0b01#2
  | .cAnd rd rs2 => encCA 0b100#3 0b0#1 0b11#2 rd 0b11#2 rs2 0b01#2
  | .cSubw rd rs2 => encCA 0b100#3 0b1#1 0b11#2 rd 0b00#2 rs2 0b01#2
  | .cAddw rd rs2 => encCA 0b100#3 0b1#1 0b11#2 rd 0b01#2 rs2 0b01#2
  | .cJ imm => encCJ 0b101#3 imm 0b01#2
  | .cBeqz rs1 imm => encCB 0b110#3 (imm.extractLsb 8 8 ++ imm.extractLsb 4 3) rs1
      (imm.extractLsb 7 6 ++ imm.extractLsb 2 1 ++ imm.extractLsb 5 5) 0b01#2
  | .cBnez rs1 imm => encCB 0b111#3 (imm.extractLsb 8 8 ++ imm.extractLsb 4 3) rs1
      (imm.extractLsb 7 6 ++ imm.extractLsb 2 1 ++ imm.extractLsb 5 5) 0b01#2
  | .cSlli32 rd shamt => encCI 0b000#3 0b0#1 rd (shamt.extractLsb 4 0) 0b10#2
  | .cSlli64 rd shamt => encCI 0b000#3 (shamt.extractLsb 5 5) rd (shamt.extractLsb 4 0) 0b10#2
  | .cFldsp rd imm => encCI 0b001#3 (imm.extractLsb 5 5) rd (imm.extractLsb 4 3 ++ imm.extractLsb 8 6) 0b10#2
  | .cLwsp rd imm => encCI 0b010#3 (imm.extractLsb 5 5) rd (imm.extractLsb 4 2 ++ imm.extractLsb 7 6) 0b10#2
  | .cFlwsp rd imm => encCI 0b011#3 (imm.extractLsb 5 5) rd (imm.extractLsb 4 2 ++ imm.extractLsb 7 6) 0b10#2
  | .cLdsp rd imm => encCI 0b011#3 (imm.extractLsb 5 5) rd (imm.extractLsb 4 3 ++ imm.extractLsb 8 6) 0b10#2
  | .cEbreak => encCI 0b100#3 0b1#1 0b00000#5 0b00000#5 0b10#2
  | .cJr rs1 => encCR 0b100#3 0b0#1 rs1 0b00000#5 0b10#2
  | .cMv rd rs2 => encCR 0b100#3 0b0#1 rd rs2 0b10#2
  | .cJalr rs1 => encCR 0b100#3 0b1#1 rs1 0b00000#5 0b10#2
  | .cAdd rd rs2 => encCR 0b100#3 0b1#1 rd rs2 0b10#2
  | .cFsdsp rs2 imm => encCSS 0b101#3 (imm.extractLsb 5 3 ++ imm.extractLsb 8 6) rs2 0b10#2
  | .cSwsp rs2 imm => encCSS 0b110#3 (imm.extractLsb 5 2 ++ imm.extractLsb 7 6) rs2 0b10#2
  | .cFswsp rs2 imm => encCSS 0b111#3 (imm.extractLsb 5 2 ++ imm.extractLsb 7 6) rs2 0b10#2
  | .cSdsp rs2 imm => encCSS 0b111#3 (imm.extractLsb 5 3 ++ imm.extractLsb 8 6) rs2 0b10#2

/-- The instruction's bytes in the order of an instruction stream, little-endian: four, or two for a 16-bit instruction (R40). -/
def encodeBytes (i : Instr) : List Byte :=
  let w := encode i
  if isLen4 w then [w.extractLsb 7 0, w.extractLsb 15 8, w.extractLsb 23 16, w.extractLsb 31 24]
  else [w.extractLsb 7 0, w.extractLsb 15 8]

/-! ## What the table says of an instruction -/

/-- The instruction's place in `opcodeTable`. -/
def Instr.rowNumber : Instr → Nat
  | .lui .. => 0
  | .auipc .. => 1
  | .jal .. => 2
  | .jalr .. => 3
  | .beq .. => 4
  | .bne .. => 5
  | .blt .. => 6
  | .bge .. => 7
  | .bltu .. => 8
  | .bgeu .. => 9
  | .lb .. => 10
  | .lh .. => 11
  | .lw .. => 12
  | .lbu .. => 13
  | .lhu .. => 14
  | .sb .. => 15
  | .sh .. => 16
  | .sw .. => 17
  | .addi .. => 18
  | .slti .. => 19
  | .sltiu .. => 20
  | .xori .. => 21
  | .ori .. => 22
  | .andi .. => 23
  | .slli32 .. => 24
  | .srli32 .. => 25
  | .srai32 .. => 26
  | .add .. => 27
  | .sub .. => 28
  | .sll .. => 29
  | .slt .. => 30
  | .sltu .. => 31
  | .xor .. => 32
  | .srl .. => 33
  | .sra .. => 34
  | .or .. => 35
  | .and .. => 36
  | .fence .. => 37
  | .ecall => 38
  | .ebreak => 39
  | .slli64 .. => 40
  | .srli64 .. => 41
  | .srai64 .. => 42
  | .lwu .. => 43
  | .ld .. => 44
  | .sd .. => 45
  | .addiw .. => 46
  | .slliw .. => 47
  | .srliw .. => 48
  | .sraiw .. => 49
  | .addw .. => 50
  | .subw .. => 51
  | .sllw .. => 52
  | .srlw .. => 53
  | .sraw .. => 54
  | .fenceI => 55
  | .csrrw .. => 56
  | .csrrs .. => 57
  | .csrrc .. => 58
  | .csrrwi .. => 59
  | .csrrsi .. => 60
  | .csrrci .. => 61
  | .mul .. => 62
  | .mulh .. => 63
  | .mulhsu .. => 64
  | .mulhu .. => 65
  | .div .. => 66
  | .divu .. => 67
  | .rem .. => 68
  | .remu .. => 69
  | .mulw .. => 70
  | .divw .. => 71
  | .divuw .. => 72
  | .remw .. => 73
  | .remuw .. => 74
  | .lrW .. => 75
  | .scW .. => 76
  | .amoswapW .. => 77
  | .amoaddW .. => 78
  | .amoxorW .. => 79
  | .amoandW .. => 80
  | .amoorW .. => 81
  | .amominW .. => 82
  | .amomaxW .. => 83
  | .amominuW .. => 84
  | .amomaxuW .. => 85
  | .lrD .. => 86
  | .scD .. => 87
  | .amoswapD .. => 88
  | .amoaddD .. => 89
  | .amoxorD .. => 90
  | .amoandD .. => 91
  | .amoorD .. => 92
  | .amominD .. => 93
  | .amomaxD .. => 94
  | .amominuD .. => 95
  | .amomaxuD .. => 96
  | .flw .. => 97
  | .fsw .. => 98
  | .fmaddS .. => 99
  | .fmsubS .. => 100
  | .fnmsubS .. => 101
  | .fnmaddS .. => 102
  | .faddS .. => 103
  | .fsubS .. => 104
  | .fmulS .. => 105
  | .fdivS .. => 106
  | .fsqrtS .. => 107
  | .fsgnjS .. => 108
  | .fsgnjnS .. => 109
  | .fsgnjxS .. => 110
  | .fminS .. => 111
  | .fmaxS .. => 112
  | .feqS .. => 113
  | .fltS .. => 114
  | .fleS .. => 115
  | .fclassS .. => 116
  | .fcvtWS .. => 117
  | .fcvtWUS .. => 118
  | .fcvtSW .. => 119
  | .fcvtSWU .. => 120
  | .fmvXW .. => 121
  | .fmvWX .. => 122
  | .fcvtLS .. => 123
  | .fcvtLUS .. => 124
  | .fcvtSL .. => 125
  | .fcvtSLU .. => 126
  | .fld .. => 127
  | .fsd .. => 128
  | .fmaddD .. => 129
  | .fmsubD .. => 130
  | .fnmsubD .. => 131
  | .fnmaddD .. => 132
  | .faddD .. => 133
  | .fsubD .. => 134
  | .fmulD .. => 135
  | .fdivD .. => 136
  | .fsqrtD .. => 137
  | .fsgnjD .. => 138
  | .fsgnjnD .. => 139
  | .fsgnjxD .. => 140
  | .fminD .. => 141
  | .fmaxD .. => 142
  | .fcvtSD .. => 143
  | .fcvtDS .. => 144
  | .feqD .. => 145
  | .fltD .. => 146
  | .fleD .. => 147
  | .fclassD .. => 148
  | .fcvtWD .. => 149
  | .fcvtWUD .. => 150
  | .fcvtDW .. => 151
  | .fcvtDWU .. => 152
  | .fcvtLD .. => 153
  | .fcvtLUD .. => 154
  | .fmvXD .. => 155
  | .fcvtDL .. => 156
  | .fcvtDLU .. => 157
  | .fmvDX .. => 158
  | .sret => 159
  | .mret => 160
  | .wfi => 161
  | .sfenceVma .. => 162
  | .cAddi4spn .. => 163
  | .cFld .. => 164
  | .cLw .. => 165
  | .cFlw .. => 166
  | .cLd .. => 167
  | .cFsd .. => 168
  | .cSw .. => 169
  | .cFsw .. => 170
  | .cSd .. => 171
  | .cNop => 172
  | .cAddi .. => 173
  | .cJal .. => 174
  | .cAddiw .. => 175
  | .cLi .. => 176
  | .cAddi16sp .. => 177
  | .cLui .. => 178
  | .cSrli32 .. => 179
  | .cSrli64 .. => 180
  | .cSrai32 .. => 181
  | .cSrai64 .. => 182
  | .cAndi .. => 183
  | .cSub .. => 184
  | .cXor .. => 185
  | .cOr .. => 186
  | .cAnd .. => 187
  | .cSubw .. => 188
  | .cAddw .. => 189
  | .cJ .. => 190
  | .cBeqz .. => 191
  | .cBnez .. => 192
  | .cSlli32 .. => 193
  | .cSlli64 .. => 194
  | .cFldsp .. => 195
  | .cLwsp .. => 196
  | .cFlwsp .. => 197
  | .cLdsp .. => 198
  | .cEbreak => 199
  | .cJr .. => 200
  | .cMv .. => 201
  | .cJalr .. => 202
  | .cAdd .. => 203
  | .cFsdsp .. => 204
  | .cSwsp .. => 205
  | .cFswsp .. => 206
  | .cSdsp .. => 207

/-- The operands as the field ports report them; the ports of fields the format does not produce are 0 (R95). -/
def Instr.fields : Instr → Fields
  | .lui rd imm | .auipc rd imm | .jal rd imm | .cAddi4spn rd imm | .cAddi rd imm | .cLi rd imm | .cLui rd imm
  | .cAndi rd imm | .cFldsp rd imm | .cLwsp rd imm | .cFlwsp rd imm | .cAddiw rd imm | .cLdsp rd imm =>
    { rd := rd, imm := imm }
  | .jalr rd rs1 imm | .lb rd rs1 imm | .lh rd rs1 imm | .lw rd rs1 imm | .lbu rd rs1 imm | .lhu rd rs1 imm
  | .addi rd rs1 imm | .slti rd rs1 imm | .sltiu rd rs1 imm | .xori rd rs1 imm | .ori rd rs1 imm | .andi rd rs1 imm
  | .fence rd rs1 imm | .flw rd rs1 imm | .fld rd rs1 imm | .cFld rd rs1 imm | .cLw rd rs1 imm | .cFlw rd rs1 imm
  | .lwu rd rs1 imm | .ld rd rs1 imm | .addiw rd rs1 imm | .cLd rd rs1 imm =>
    { rd := rd, rs1 := rs1, imm := imm }
  | .beq rs1 rs2 imm | .bne rs1 rs2 imm | .blt rs1 rs2 imm | .bge rs1 rs2 imm | .bltu rs1 rs2 imm | .bgeu rs1 rs2 imm
  | .sb rs1 rs2 imm | .sh rs1 rs2 imm | .sw rs1 rs2 imm | .fsw rs1 rs2 imm | .fsd rs1 rs2 imm | .cFsd rs1 rs2 imm
  | .cSw rs1 rs2 imm | .cFsw rs1 rs2 imm | .sd rs1 rs2 imm | .cSd rs1 rs2 imm =>
    { rs1 := rs1, rs2 := rs2, imm := imm }
  | .slli32 rd rs1 shamt | .srli32 rd rs1 shamt | .srai32 rd rs1 shamt | .slli64 rd rs1 shamt | .srli64 rd rs1 shamt
  | .srai64 rd rs1 shamt | .slliw rd rs1 shamt | .srliw rd rs1 shamt | .sraiw rd rs1 shamt =>
    { rd := rd, rs1 := rs1, shamt := shamt }
  | .add rd rs1 rs2 | .sub rd rs1 rs2 | .sll rd rs1 rs2 | .slt rd rs1 rs2 | .sltu rd rs1 rs2 | .xor rd rs1 rs2
  | .srl rd rs1 rs2 | .sra rd rs1 rs2 | .or rd rs1 rs2 | .and rd rs1 rs2 | .mul rd rs1 rs2 | .mulh rd rs1 rs2
  | .mulhsu rd rs1 rs2 | .mulhu rd rs1 rs2 | .div rd rs1 rs2 | .divu rd rs1 rs2 | .rem rd rs1 rs2 | .remu rd rs1 rs2
  | .fsgnjS rd rs1 rs2 | .fsgnjnS rd rs1 rs2 | .fsgnjxS rd rs1 rs2 | .fminS rd rs1 rs2 | .fmaxS rd rs1 rs2
  | .feqS rd rs1 rs2 | .fltS rd rs1 rs2 | .fleS rd rs1 rs2 | .fsgnjD rd rs1 rs2 | .fsgnjnD rd rs1 rs2
  | .fsgnjxD rd rs1 rs2 | .fminD rd rs1 rs2 | .fmaxD rd rs1 rs2 | .feqD rd rs1 rs2 | .fltD rd rs1 rs2
  | .fleD rd rs1 rs2 | .addw rd rs1 rs2 | .subw rd rs1 rs2 | .sllw rd rs1 rs2 | .srlw rd rs1 rs2 | .sraw rd rs1 rs2
  | .mulw rd rs1 rs2 | .divw rd rs1 rs2 | .divuw rd rs1 rs2 | .remw rd rs1 rs2 | .remuw rd rs1 rs2 =>
    { rd := rd, rs1 := rs1, rs2 := rs2 }
  | .ecall | .ebreak | .fenceI | .sret | .mret | .wfi | .cNop | .cEbreak => {}
  | .csrrw rd rs1 csr | .csrrs rd rs1 csr | .csrrc rd rs1 csr =>
    { rd := rd, rs1 := rs1, csr := csr }
  | .csrrwi rd imm csr | .csrrsi rd imm csr | .csrrci rd imm csr =>
    { rd := rd, imm := imm, csr := csr }
  | .lrW rd rs1 aq rl | .lrD rd rs1 aq rl =>
    { rd := rd, rs1 := rs1, aq := aq, rl := rl }
  | .scW rd rs1 rs2 aq rl | .amoswapW rd rs1 rs2 aq rl | .amoaddW rd rs1 rs2 aq rl | .amoxorW rd rs1 rs2 aq rl
  | .amoandW rd rs1 rs2 aq rl | .amoorW rd rs1 rs2 aq rl | .amominW rd rs1 rs2 aq rl | .amomaxW rd rs1 rs2 aq rl
  | .amominuW rd rs1 rs2 aq rl | .amomaxuW rd rs1 rs2 aq rl | .scD rd rs1 rs2 aq rl | .amoswapD rd rs1 rs2 aq rl
  | .amoaddD rd rs1 rs2 aq rl | .amoxorD rd rs1 rs2 aq rl | .amoandD rd rs1 rs2 aq rl | .amoorD rd rs1 rs2 aq rl
  | .amominD rd rs1 rs2 aq rl | .amomaxD rd rs1 rs2 aq rl | .amominuD rd rs1 rs2 aq rl | .amomaxuD rd rs1 rs2 aq rl =>
    { rd := rd, rs1 := rs1, rs2 := rs2, aq := aq, rl := rl }
  | .fmaddS rd rs1 rs2 rs3 rm | .fmsubS rd rs1 rs2 rs3 rm | .fnmsubS rd rs1 rs2 rs3 rm | .fnmaddS rd rs1 rs2 rs3 rm
  | .fmaddD rd rs1 rs2 rs3 rm | .fmsubD rd rs1 rs2 rs3 rm | .fnmsubD rd rs1 rs2 rs3 rm | .fnmaddD rd rs1 rs2 rs3 rm =>
    { rd := rd, rs1 := rs1, rs2 := rs2, rs3 := rs3, rm := rm }
  | .faddS rd rs1 rs2 rm | .fsubS rd rs1 rs2 rm | .fmulS rd rs1 rs2 rm | .fdivS rd rs1 rs2 rm | .faddD rd rs1 rs2 rm
  | .fsubD rd rs1 rs2 rm | .fmulD rd rs1 rs2 rm | .fdivD rd rs1 rs2 rm =>
    { rd := rd, rs1 := rs1, rs2 := rs2, rm := rm }
  | .fsqrtS rd rs1 rm | .fcvtWS rd rs1 rm | .fcvtWUS rd rs1 rm | .fcvtSW rd rs1 rm | .fcvtSWU rd rs1 rm
  | .fsqrtD rd rs1 rm | .fcvtSD rd rs1 rm | .fcvtDS rd rs1 rm | .fcvtWD rd rs1 rm | .fcvtWUD rd rs1 rm
  | .fcvtDW rd rs1 rm | .fcvtDWU rd rs1 rm | .fcvtLS rd rs1 rm | .fcvtLUS rd rs1 rm | .fcvtSL rd rs1 rm
  | .fcvtSLU rd rs1 rm | .fcvtLD rd rs1 rm | .fcvtLUD rd rs1 rm | .fcvtDL rd rs1 rm | .fcvtDLU rd rs1 rm =>
    { rd := rd, rs1 := rs1, rm := rm }
  | .fclassS rd rs1 | .fmvXW rd rs1 | .fmvWX rd rs1 | .fclassD rd rs1 | .fmvXD rd rs1 | .fmvDX rd rs1 =>
    { rd := rd, rs1 := rs1 }
  | .sfenceVma rs1 rs2 =>
    { rs1 := rs1, rs2 := rs2 }
  | .cJal imm | .cAddi16sp imm | .cJ imm =>
    { imm := imm }
  | .cSrli32 rd shamt | .cSrai32 rd shamt | .cSlli32 rd shamt | .cSrli64 rd shamt | .cSrai64 rd shamt
  | .cSlli64 rd shamt =>
    { rd := rd, shamt := shamt }
  | .cSub rd rs2 | .cXor rd rs2 | .cOr rd rs2 | .cAnd rd rs2 | .cMv rd rs2 | .cAdd rd rs2 | .cSubw rd rs2
  | .cAddw rd rs2 =>
    { rd := rd, rs2 := rs2 }
  | .cBeqz rs1 imm | .cBnez rs1 imm =>
    { rs1 := rs1, imm := imm }
  | .cJr rs1 | .cJalr rs1 =>
    { rs1 := rs1 }
  | .cFsdsp rs2 imm | .cSwsp rs2 imm | .cFswsp rs2 imm | .cSdsp rs2 imm =>
    { rs2 := rs2, imm := imm }

/-- The reference catalog of `x` holds the instruction (R138). -/
def Instr.presentIn (i : Instr) (x : XLen) : Bool := (opcodeTable[i.rowNumber]?.map (·.admits x)).getD false

end Sys2Proof
end

