-- ==== Sys2Proof/Machine/State.lean ====
section
/-! DEFINITION. The state: the constants fixed at elaboration, the stage-1 and stage-2 registers (R19), and, as the model's own
part, the levels that the outside world drives on the input ports (R27). The reset state, the power-up state, and the reasons
a machine or a build can stop. -/

namespace Sys2Proof.Machine

/-- Stage-1 registers (R23): the matcher's result for one word. `index` is held as a number; its port is `IDX_W` bits (R8), and
an invariant keeps it below `2 ^ IDX_W` (log 5). -/
structure Stage1 where
  valid : Bool
  len4 : Bool
  word : Word
  hit : Bool
  index : Nat
  fmt : Code
deriving DecidableEq, Repr, Inhabited

/-- Stage-2 registers (R24). They are the output ports of the same names; `fields` holds the ten field ports `out_rd` to
`out_rl`. -/
structure Stage2 where
  valid : Bool
  len4 : Bool
  word : Word
  hit : Bool
  index : Nat
  fmt : Code
  fvalid : BitVec 10
  fields : Fields
deriving DecidableEq, Repr, Inhabited

/-- The levels on the input ports at a rising edge of `clk` (R27). -/
structure Ports where
  rst : Bool
  en : Bool
  inValid : Bool
  inWord : Word
deriving DecidableEq, Repr, Inhabited

/-- The machine. -/
structure State where
  /-- The parameter XLEN (R6). The datapath does not depend on it. -/
  xlen : XLen
  /-- The catalog ROM `CAT[0..N-1]` (R20), the parameter CATALOG (R7); no step writes it (R21). -/
  rom : List Entry
  /-- The constant on output `ext_set` (R22). -/
  extSet : BitVec 32
  /-- The stage-1 registers (R23). -/
  s1 : Stage1
  /-- The stage-2 registers and output ports (R24). -/
  out : Stage2
  /-- The model's own (log 3): the levels on the input ports at the coming edge. -/
  ports : Ports
  /-- The model's own (log 3): the levels the outside world drives at the edges after it, in order. -/
  stimulus : List Ports
deriving DecidableEq, Repr

/-- Why the machine stops with a fault. No step raises one: the block has no failure mode at run time (R169). -/
inductive Fault where
  /-- Raised by `elaborate` when a definition of the catalog is malformed: there is no block (R168). Safe: the spec names this
  outcome. -/
  | malformedDefinition (e : Malformed)
deriving DecidableEq, Repr

/-- Why the machine has no answer. No step raises one: every word is decoded (R91). -/
inductive Refusal where
  /-- An instruction that has no meaning yet. No arm of `exec` raises it. Safe. -/
  | notModelled (mnemonic : String)
  /-- Raised by `elaborate` for a word width that has no reference catalog when no catalog is given (R6, R140). Safe: the spec
  asks a model to refuse here. -/
  | noReferenceCatalog (wordWidth : Nat)
deriving DecidableEq, Repr

/-- What a step or a meaning answers. -/
abbrev Result := Host.Outcome State Fault Refusal

/-- The stage-1 registers after reset (R34). -/
def Stage1.reset : Stage1 :=
  { valid := false, len4 := false, word := 0#32, hit := false, index := 0, fmt := 0#6 }

/-- The stage-2 registers after reset (R34). -/
def Stage2.reset : Stage2 :=
  { valid := false, len4 := false, word := 0#32, hit := false, index := 0, fmt := 0#6, fvalid := 0#10, fields := {} }

/-- Input ports that ask for nothing: no reset, not enabled, no word (log 3). -/
def Ports.idle : Ports := { rst := false, en := false, inValid := false, inWord := 0#32 }

/-- The machine right after a reset edge (R34, R180), built with the reference catalog of `Config.xlen` (R7, log 1), its input
ports idle (log 3). -/
def State.reset : State where
  xlen := Config.xlen
  rom := referenceRom Config.xlen
  extSet := referenceExtSet
  s1 := Stage1.reset
  out := Stage2.reset
  ports := Ports.idle
  stimulus := []

end Sys2Proof.Machine
end

