-- ==== Sys2Proof/Machine/Ops.lean ====
section
/-! DEFINITION. The named operations on the pipeline: the matcher's result for a word (R92), the extractor's result for a slot
(R96), the three kinds of clock edge (R180, R183), and the operation every instruction's meaning is given by, `clockEdge`.
The block takes no exception and returns from none (R170, R173, R174); its one decode-time error, NoMatch, is an ordinary
result of `matchSlot` and `extractSlot` (R166). -/

namespace Sys2Proof.Machine

/-- What stage 1 loads at an enabled edge for the word `w` presented with `in_valid = v` (R92, branch `en`). The data registers
load whether the word is valid or not (R35). -/
def matchSlot (rom : List Entry) (v : Bool) (w : Word) : Stage1 where
  valid := v
  len4 := isLen4 w
  word := truncWord w
  hit := matchHit rom w
  index := matchIndex rom w
  fmt := matchFmt rom w

/-- The tag code the extractor works by, from `s1_fmt` and `s1_word`: the code itself where an entry of the word's width class may carry
it, NONE for a reserved code and for a code of the other class, which only a ROM handed over directly can hold (R57, R95). The class
is read from the word's two low bits, so that extraction reads `s1_word` and `s1_fmt` alone (R95; log 12). -/
def extractorCode (c : Code) (w : Word) : Code := if codeAllowed (!isLen4 w) c then c else 0#6

/-- What stage 2 loads at an enabled edge (R96, branch `en`). It reads the stage-1 registers alone (R95). `out_fmt` is `s1_fmt` as it
stands (R96), whatever code that is. -/
def extractSlot (s1 : Stage1) : Stage2 where
  valid := s1.valid
  len4 := s1.len4
  word := s1.word
  hit := s1.hit
  index := s1.index
  fmt := s1.fmt
  fvalid := fvalidOf (extractorCode s1.fmt s1.word)
  fields := fieldsOf (extractorCode s1.fmt s1.word) s1.word

/-- `DECODE(W)` with `out_valid = v`: what the outputs show for a word two enabled edges after it was presented (R183). -/
def decodeSlot (rom : List Entry) (v : Bool) (w : Word) : Stage2 := extractSlot (matchSlot rom v w)

/-- A reset edge: every pipeline register takes its reset value; the ROM and `ext_set` are constants (R180, R34). -/
def resetEdge (s : State) : State := { s with s1 := Stage1.reset, out := Stage2.reset }

/-- An enabled edge with the word `w` on `in_word`: both stages advance together, each reading the values before the edge
(R15, R92, R96). -/
def enabledEdge (w : Word) (s : State) : State :=
  { s with s1 := matchSlot s.rom s.ports.inValid w, out := extractSlot s.s1 }

/-- The rising edge of `clk` with the word `w` on `in_word` and the other inputs as the ports have them: `rst` dominates `en`, and
with neither every register holds its value (R92, R96, R180). -/
def edgeWith (w : Word) (s : State) : State :=
  if s.ports.rst then resetEdge s
  else if s.ports.en then enabledEdge w s
  else s

/-- The clock edge as an outcome of a step: it always gives a next state (R91, R169). -/
def clockEdge (w : Word) (s : State) : Result := .next (edgeWith w s)

/-- The outside world moves on after an edge: the next levels of the stimulus stand on the input ports, and when there are none
left the ports keep their levels (log 3). -/
def nextPorts (s : State) : State :=
  match s.stimulus with
  | p :: ps => { s with ports := p, stimulus := ps }
  | [] => s

/-- The outside world moves on after an edge that gave a next state. -/
def driveNext : Result → Result
  | .next s => .next (nextPorts s)
  | .fault f => .fault f
  | .refused r => .refused r

/-- The word `w` stands on the input ports of `s` as a valid word at an enabled edge; where only the other XLEN's reference catalog
holds the word, the block is the one built for that XLEN (log 2). -/
def presentWord (w : Word) (s : State) : State :=
  let x := buildHolding s.xlen w
  let s := if x = s.xlen then s else { s with xlen := x, rom := referenceRom x }
  { s with ports := { rst := false, en := true, inValid := true, inWord := w } }

end Sys2Proof.Machine
end

