-- ==== Sys2Proof/Machine/Atomics.lean ====
section
/-! DEFINITION. The meanings of the atomic modules RV32A and RV64A (R147, R148). An instruction of this block is a word on `in_word`: its meaning is
the clock edge with that word, laid out by `encode`. At an enabled edge stage 1 takes the matcher's result for the word and
stage 2 the extractor's result for the slot before it; at the next enabled edge the operands stand on the field ports of the
instruction's tag. -/

namespace Sys2Proof.Machine

/-- LR.W: entry 55 (XLEN 32) or 72 (XLEN 64); tag R_LR, fields by R106. The block holds no reservation (R47). -/
def execLrW (rd rs1 : Reg) (aq rl : Bool) (s : State) : Result := clockEdge (encode (.lrW rd rs1 aq rl)) s

/-- SC.W: entry 56 (XLEN 32) or 73 (XLEN 64); tag R_AMO, fields by R105. The block holds no reservation (R47). -/
def execScW (rd rs1 rs2 : Reg) (aq rl : Bool) (s : State) : Result := clockEdge (encode (.scW rd rs1 rs2 aq rl)) s

/-- AMOSWAP.W: entry 57 (XLEN 32) or 74 (XLEN 64); tag R_AMO, fields by R105. -/
def execAmoswapW (rd rs1 rs2 : Reg) (aq rl : Bool) (s : State) : Result := clockEdge (encode (.amoswapW rd rs1 rs2 aq rl)) s

/-- AMOADD.W: entry 58 (XLEN 32) or 75 (XLEN 64); tag R_AMO, fields by R105. -/
def execAmoaddW (rd rs1 rs2 : Reg) (aq rl : Bool) (s : State) : Result := clockEdge (encode (.amoaddW rd rs1 rs2 aq rl)) s

/-- AMOXOR.W: entry 59 (XLEN 32) or 76 (XLEN 64); tag R_AMO, fields by R105. -/
def execAmoxorW (rd rs1 rs2 : Reg) (aq rl : Bool) (s : State) : Result := clockEdge (encode (.amoxorW rd rs1 rs2 aq rl)) s

/-- AMOAND.W: entry 60 (XLEN 32) or 77 (XLEN 64); tag R_AMO, fields by R105. -/
def execAmoandW (rd rs1 rs2 : Reg) (aq rl : Bool) (s : State) : Result := clockEdge (encode (.amoandW rd rs1 rs2 aq rl)) s

/-- AMOOR.W: entry 61 (XLEN 32) or 78 (XLEN 64); tag R_AMO, fields by R105. -/
def execAmoorW (rd rs1 rs2 : Reg) (aq rl : Bool) (s : State) : Result := clockEdge (encode (.amoorW rd rs1 rs2 aq rl)) s

/-- AMOMIN.W: entry 62 (XLEN 32) or 79 (XLEN 64); tag R_AMO, fields by R105. -/
def execAmominW (rd rs1 rs2 : Reg) (aq rl : Bool) (s : State) : Result := clockEdge (encode (.amominW rd rs1 rs2 aq rl)) s

/-- AMOMAX.W: entry 63 (XLEN 32) or 80 (XLEN 64); tag R_AMO, fields by R105. -/
def execAmomaxW (rd rs1 rs2 : Reg) (aq rl : Bool) (s : State) : Result := clockEdge (encode (.amomaxW rd rs1 rs2 aq rl)) s

/-- AMOMINU.W: entry 64 (XLEN 32) or 81 (XLEN 64); tag R_AMO, fields by R105. -/
def execAmominuW (rd rs1 rs2 : Reg) (aq rl : Bool) (s : State) : Result := clockEdge (encode (.amominuW rd rs1 rs2 aq rl)) s

/-- AMOMAXU.W: entry 65 (XLEN 32) or 82 (XLEN 64); tag R_AMO, fields by R105. -/
def execAmomaxuW (rd rs1 rs2 : Reg) (aq rl : Bool) (s : State) : Result := clockEdge (encode (.amomaxuW rd rs1 rs2 aq rl)) s

/-- LR.D: entry 83, XLEN 64 only; tag R_LR, fields by R106. -/
def execLrD (rd rs1 : Reg) (aq rl : Bool) (s : State) : Result := clockEdge (encode (.lrD rd rs1 aq rl)) s

/-- SC.D: entry 84, XLEN 64 only; tag R_AMO, fields by R105. -/
def execScD (rd rs1 rs2 : Reg) (aq rl : Bool) (s : State) : Result := clockEdge (encode (.scD rd rs1 rs2 aq rl)) s

/-- AMOSWAP.D: entry 85, XLEN 64 only; tag R_AMO, fields by R105. -/
def execAmoswapD (rd rs1 rs2 : Reg) (aq rl : Bool) (s : State) : Result := clockEdge (encode (.amoswapD rd rs1 rs2 aq rl)) s

/-- AMOADD.D: entry 86, XLEN 64 only; tag R_AMO, fields by R105. -/
def execAmoaddD (rd rs1 rs2 : Reg) (aq rl : Bool) (s : State) : Result := clockEdge (encode (.amoaddD rd rs1 rs2 aq rl)) s

/-- AMOXOR.D: entry 87, XLEN 64 only; tag R_AMO, fields by R105. -/
def execAmoxorD (rd rs1 rs2 : Reg) (aq rl : Bool) (s : State) : Result := clockEdge (encode (.amoxorD rd rs1 rs2 aq rl)) s

/-- AMOAND.D: entry 88, XLEN 64 only; tag R_AMO, fields by R105. -/
def execAmoandD (rd rs1 rs2 : Reg) (aq rl : Bool) (s : State) : Result := clockEdge (encode (.amoandD rd rs1 rs2 aq rl)) s

/-- AMOOR.D: entry 89, XLEN 64 only; tag R_AMO, fields by R105. -/
def execAmoorD (rd rs1 rs2 : Reg) (aq rl : Bool) (s : State) : Result := clockEdge (encode (.amoorD rd rs1 rs2 aq rl)) s

/-- AMOMIN.D: entry 90, XLEN 64 only; tag R_AMO, fields by R105. -/
def execAmominD (rd rs1 rs2 : Reg) (aq rl : Bool) (s : State) : Result := clockEdge (encode (.amominD rd rs1 rs2 aq rl)) s

/-- AMOMAX.D: entry 91, XLEN 64 only; tag R_AMO, fields by R105. -/
def execAmomaxD (rd rs1 rs2 : Reg) (aq rl : Bool) (s : State) : Result := clockEdge (encode (.amomaxD rd rs1 rs2 aq rl)) s

/-- AMOMINU.D: entry 92, XLEN 64 only; tag R_AMO, fields by R105. -/
def execAmominuD (rd rs1 rs2 : Reg) (aq rl : Bool) (s : State) : Result := clockEdge (encode (.amominuD rd rs1 rs2 aq rl)) s

/-- AMOMAXU.D: entry 93, XLEN 64 only; tag R_AMO, fields by R105. -/
def execAmomaxuD (rd rs1 rs2 : Reg) (aq rl : Bool) (s : State) : Result := clockEdge (encode (.amomaxuD rd rs1 rs2 aq rl)) s

end Sys2Proof.Machine
end

