-- ==== Sys2Proof/Machine/Double.lean ====
section
/-! DEFINITION. The meanings of the double-precision modules RV32D and RV64D (R151, R152). An instruction of this block is a word on `in_word`: its meaning is
the clock edge with that word, laid out by `encode`. At an enabled edge stage 1 takes the matcher's result for the word and
stage 2 the extractor's result for the slot before it; at the next enabled edge the operands stand on the field ports of the
instruction's tag. -/

namespace Sys2Proof.Machine

/-- FLD: entry 92 (XLEN 32) or 124 (XLEN 64); tag I, fields by R107. -/
def execFld (rd rs1 : Reg) (imm : Word) (s : State) : Result := clockEdge (encode (.fld rd rs1 imm)) s

/-- FSD: entry 93 (XLEN 32) or 125 (XLEN 64); tag S, fields by R112. -/
def execFsd (rs1 rs2 : Reg) (imm : Word) (s : State) : Result := clockEdge (encode (.fsd rs1 rs2 imm)) s

/-- FMADD.D: entry 94 (XLEN 32) or 126 (XLEN 64); tag R4_RM, fields by R104. -/
def execFmaddD (rd rs1 rs2 rs3 : Reg) (rm : BitVec 3) (s : State) : Result := clockEdge (encode (.fmaddD rd rs1 rs2 rs3 rm)) s

/-- FMSUB.D: entry 95 (XLEN 32) or 127 (XLEN 64); tag R4_RM, fields by R104. -/
def execFmsubD (rd rs1 rs2 rs3 : Reg) (rm : BitVec 3) (s : State) : Result := clockEdge (encode (.fmsubD rd rs1 rs2 rs3 rm)) s

/-- FNMSUB.D: entry 96 (XLEN 32) or 128 (XLEN 64); tag R4_RM, fields by R104. -/
def execFnmsubD (rd rs1 rs2 rs3 : Reg) (rm : BitVec 3) (s : State) : Result := clockEdge (encode (.fnmsubD rd rs1 rs2 rs3 rm)) s

/-- FNMADD.D: entry 97 (XLEN 32) or 129 (XLEN 64); tag R4_RM, fields by R104. -/
def execFnmaddD (rd rs1 rs2 rs3 : Reg) (rm : BitVec 3) (s : State) : Result := clockEdge (encode (.fnmaddD rd rs1 rs2 rs3 rm)) s

/-- FADD.D: entry 98 (XLEN 32) or 130 (XLEN 64); tag R_RM, fields by R102. -/
def execFaddD (rd rs1 rs2 : Reg) (rm : BitVec 3) (s : State) : Result := clockEdge (encode (.faddD rd rs1 rs2 rm)) s

/-- FSUB.D: entry 99 (XLEN 32) or 131 (XLEN 64); tag R_RM, fields by R102. -/
def execFsubD (rd rs1 rs2 : Reg) (rm : BitVec 3) (s : State) : Result := clockEdge (encode (.fsubD rd rs1 rs2 rm)) s

/-- FMUL.D: entry 100 (XLEN 32) or 132 (XLEN 64); tag R_RM, fields by R102. -/
def execFmulD (rd rs1 rs2 : Reg) (rm : BitVec 3) (s : State) : Result := clockEdge (encode (.fmulD rd rs1 rs2 rm)) s

/-- FDIV.D: entry 101 (XLEN 32) or 133 (XLEN 64); tag R_RM, fields by R102. -/
def execFdivD (rd rs1 rs2 : Reg) (rm : BitVec 3) (s : State) : Result := clockEdge (encode (.fdivD rd rs1 rs2 rm)) s

/-- FSQRT.D: entry 102 (XLEN 32) or 134 (XLEN 64); tag R2_RM, fields by R103. -/
def execFsqrtD (rd rs1 : Reg) (rm : BitVec 3) (s : State) : Result := clockEdge (encode (.fsqrtD rd rs1 rm)) s

/-- FSGNJ.D: entry 103 (XLEN 32) or 135 (XLEN 64); tag R, fields by R99. -/
def execFsgnjD (rd rs1 rs2 : Reg) (s : State) : Result := clockEdge (encode (.fsgnjD rd rs1 rs2)) s

/-- FSGNJN.D: entry 104 (XLEN 32) or 136 (XLEN 64); tag R, fields by R99. -/
def execFsgnjnD (rd rs1 rs2 : Reg) (s : State) : Result := clockEdge (encode (.fsgnjnD rd rs1 rs2)) s

/-- FSGNJX.D: entry 105 (XLEN 32) or 137 (XLEN 64); tag R, fields by R99. -/
def execFsgnjxD (rd rs1 rs2 : Reg) (s : State) : Result := clockEdge (encode (.fsgnjxD rd rs1 rs2)) s

/-- FMIN.D: entry 106 (XLEN 32) or 138 (XLEN 64); tag R, fields by R99. -/
def execFminD (rd rs1 rs2 : Reg) (s : State) : Result := clockEdge (encode (.fminD rd rs1 rs2)) s

/-- FMAX.D: entry 107 (XLEN 32) or 139 (XLEN 64); tag R, fields by R99. -/
def execFmaxD (rd rs1 rs2 : Reg) (s : State) : Result := clockEdge (encode (.fmaxD rd rs1 rs2)) s

/-- FCVT.S.D: entry 108 (XLEN 32) or 140 (XLEN 64); tag R2_RM, fields by R103. -/
def execFcvtSD (rd rs1 : Reg) (rm : BitVec 3) (s : State) : Result := clockEdge (encode (.fcvtSD rd rs1 rm)) s

/-- FCVT.D.S: entry 109 (XLEN 32) or 141 (XLEN 64); tag R2_RM, fields by R103. -/
def execFcvtDS (rd rs1 : Reg) (rm : BitVec 3) (s : State) : Result := clockEdge (encode (.fcvtDS rd rs1 rm)) s

/-- FEQ.D: entry 110 (XLEN 32) or 142 (XLEN 64); tag R, fields by R99. -/
def execFeqD (rd rs1 rs2 : Reg) (s : State) : Result := clockEdge (encode (.feqD rd rs1 rs2)) s

/-- FLT.D: entry 111 (XLEN 32) or 143 (XLEN 64); tag R, fields by R99. -/
def execFltD (rd rs1 rs2 : Reg) (s : State) : Result := clockEdge (encode (.fltD rd rs1 rs2)) s

/-- FLE.D: entry 112 (XLEN 32) or 144 (XLEN 64); tag R, fields by R99. -/
def execFleD (rd rs1 rs2 : Reg) (s : State) : Result := clockEdge (encode (.fleD rd rs1 rs2)) s

/-- FCLASS.D: entry 113 (XLEN 32) or 145 (XLEN 64); tag R2, fields by R100. -/
def execFclassD (rd rs1 : Reg) (s : State) : Result := clockEdge (encode (.fclassD rd rs1)) s

/-- FCVT.W.D: entry 114 (XLEN 32) or 146 (XLEN 64); tag R2_RM, fields by R103. -/
def execFcvtWD (rd rs1 : Reg) (rm : BitVec 3) (s : State) : Result := clockEdge (encode (.fcvtWD rd rs1 rm)) s

/-- FCVT.WU.D: entry 115 (XLEN 32) or 147 (XLEN 64); tag R2_RM, fields by R103. -/
def execFcvtWUD (rd rs1 : Reg) (rm : BitVec 3) (s : State) : Result := clockEdge (encode (.fcvtWUD rd rs1 rm)) s

/-- FCVT.D.W: entry 116 (XLEN 32) or 148 (XLEN 64); tag R2_RM, fields by R103. -/
def execFcvtDW (rd rs1 : Reg) (rm : BitVec 3) (s : State) : Result := clockEdge (encode (.fcvtDW rd rs1 rm)) s

/-- FCVT.D.WU: entry 117 (XLEN 32) or 149 (XLEN 64); tag R2_RM, fields by R103. -/
def execFcvtDWU (rd rs1 : Reg) (rm : BitVec 3) (s : State) : Result := clockEdge (encode (.fcvtDWU rd rs1 rm)) s

/-- FCVT.L.D: entry 150, XLEN 64 only; tag R2_RM, fields by R103. -/
def execFcvtLD (rd rs1 : Reg) (rm : BitVec 3) (s : State) : Result := clockEdge (encode (.fcvtLD rd rs1 rm)) s

/-- FCVT.LU.D: entry 151, XLEN 64 only; tag R2_RM, fields by R103. -/
def execFcvtLUD (rd rs1 : Reg) (rm : BitVec 3) (s : State) : Result := clockEdge (encode (.fcvtLUD rd rs1 rm)) s

/-- FMV.X.D: entry 152, XLEN 64 only; tag R2, fields by R100. -/
def execFmvXD (rd rs1 : Reg) (s : State) : Result := clockEdge (encode (.fmvXD rd rs1)) s

/-- FCVT.D.L: entry 153, XLEN 64 only; tag R2_RM, fields by R103. -/
def execFcvtDL (rd rs1 : Reg) (rm : BitVec 3) (s : State) : Result := clockEdge (encode (.fcvtDL rd rs1 rm)) s

/-- FCVT.D.LU: entry 154, XLEN 64 only; tag R2_RM, fields by R103. -/
def execFcvtDLU (rd rs1 : Reg) (rm : BitVec 3) (s : State) : Result := clockEdge (encode (.fcvtDLU rd rs1 rm)) s

/-- FMV.D.X: entry 155, XLEN 64 only; tag R2, fields by R100. -/
def execFmvDX (rd rs1 : Reg) (s : State) : Result := clockEdge (encode (.fmvDX rd rs1)) s

end Sys2Proof.Machine
end

