-- ==== Sys2Proof/Machine/MulDiv.lean ====
section
/-! DEFINITION. The meanings of the multiply and divide modules RV32M and RV64M (R145, R146). An instruction of this block is a word on `in_word`: its meaning is
the clock edge with that word, laid out by `encode`. At an enabled edge stage 1 takes the matcher's result for the word and
stage 2 the extractor's result for the slot before it; at the next enabled edge the operands stand on the field ports of the
instruction's tag. -/

namespace Sys2Proof.Machine

/-- MUL: entry 47 (XLEN 32) or 59 (XLEN 64); tag R, fields by R99. -/
def execMul (rd rs1 rs2 : Reg) (s : State) : Result := clockEdge (encode (.mul rd rs1 rs2)) s

/-- MULH: entry 48 (XLEN 32) or 60 (XLEN 64); tag R, fields by R99. -/
def execMulh (rd rs1 rs2 : Reg) (s : State) : Result := clockEdge (encode (.mulh rd rs1 rs2)) s

/-- MULHSU: entry 49 (XLEN 32) or 61 (XLEN 64); tag R, fields by R99. -/
def execMulhsu (rd rs1 rs2 : Reg) (s : State) : Result := clockEdge (encode (.mulhsu rd rs1 rs2)) s

/-- MULHU: entry 50 (XLEN 32) or 62 (XLEN 64); tag R, fields by R99. -/
def execMulhu (rd rs1 rs2 : Reg) (s : State) : Result := clockEdge (encode (.mulhu rd rs1 rs2)) s

/-- DIV: entry 51 (XLEN 32) or 63 (XLEN 64); tag R, fields by R99. -/
def execDiv (rd rs1 rs2 : Reg) (s : State) : Result := clockEdge (encode (.div rd rs1 rs2)) s

/-- DIVU: entry 52 (XLEN 32) or 64 (XLEN 64); tag R, fields by R99. -/
def execDivu (rd rs1 rs2 : Reg) (s : State) : Result := clockEdge (encode (.divu rd rs1 rs2)) s

/-- REM: entry 53 (XLEN 32) or 65 (XLEN 64); tag R, fields by R99. -/
def execRem (rd rs1 rs2 : Reg) (s : State) : Result := clockEdge (encode (.rem rd rs1 rs2)) s

/-- REMU: entry 54 (XLEN 32) or 66 (XLEN 64); tag R, fields by R99. -/
def execRemu (rd rs1 rs2 : Reg) (s : State) : Result := clockEdge (encode (.remu rd rs1 rs2)) s

/-- MULW: entry 67, XLEN 64 only; tag R, fields by R99. -/
def execMulw (rd rs1 rs2 : Reg) (s : State) : Result := clockEdge (encode (.mulw rd rs1 rs2)) s

/-- DIVW: entry 68, XLEN 64 only; tag R, fields by R99. -/
def execDivw (rd rs1 rs2 : Reg) (s : State) : Result := clockEdge (encode (.divw rd rs1 rs2)) s

/-- DIVUW: entry 69, XLEN 64 only; tag R, fields by R99. -/
def execDivuw (rd rs1 rs2 : Reg) (s : State) : Result := clockEdge (encode (.divuw rd rs1 rs2)) s

/-- REMW: entry 70, XLEN 64 only; tag R, fields by R99. -/
def execRemw (rd rs1 rs2 : Reg) (s : State) : Result := clockEdge (encode (.remw rd rs1 rs2)) s

/-- REMUW: entry 71, XLEN 64 only; tag R, fields by R99. -/
def execRemuw (rd rs1 rs2 : Reg) (s : State) : Result := clockEdge (encode (.remuw rd rs1 rs2)) s

end Sys2Proof.Machine
end

