-- ==== Sys2Proof/Machine/Priv.lean ====
section
/-! DEFINITION. The meanings of the privileged module Priv (R153). An instruction of this block is a word on `in_word`: its meaning is
the clock edge with that word, laid out by `encode`. At an enabled edge stage 1 takes the matcher's result for the word and
stage 2 the extractor's result for the slot before it; at the next enabled edge the operands stand on the field ports of the
instruction's tag. -/

namespace Sys2Proof.Machine

/-- SRET: entry 118 (XLEN 32) or 156 (XLEN 64); tag NONE, fields by R98. Decoded and nothing else (R174). -/
def execSret (s : State) : Result := clockEdge (encode .sret) s

/-- MRET: entry 119 (XLEN 32) or 157 (XLEN 64); tag NONE, fields by R98. Decoded and nothing else (R174). -/
def execMret (s : State) : Result := clockEdge (encode .mret) s

/-- WFI: entry 120 (XLEN 32) or 158 (XLEN 64); tag NONE, fields by R98. No effect beyond the outputs (R171). -/
def execWfi (s : State) : Result := clockEdge (encode .wfi) s

/-- SFENCE.VMA: entry 121 (XLEN 32) or 159 (XLEN 64); tag R_S, fields by R101. It orders nothing here (R46). -/
def execSfenceVma (rs1 rs2 : Reg) (s : State) : Result := clockEdge (encode (.sfenceVma rs1 rs2)) s

end Sys2Proof.Machine
end

