-- ==== Sys2Proof/Machine/Rv32i.lean ====
section
/-! DEFINITION. The meanings of the RV32I base module (R141). An instruction of this block is a word on `in_word`: its meaning is
the clock edge with that word, laid out by `encode`. At an enabled edge stage 1 takes the matcher's result for the word and
stage 2 the extractor's result for the slot before it; at the next enabled edge the operands stand on the field ports of the
instruction's tag. -/

namespace Sys2Proof.Machine

/-- LUI: entry 0 (XLEN 32) or 0 (XLEN 64); tag U, fields by R114. -/
def execLui (rd : Reg) (imm : Word) (s : State) : Result := clockEdge (encode (.lui rd imm)) s

/-- AUIPC: entry 1 (XLEN 32) or 1 (XLEN 64); tag U, fields by R114. -/
def execAuipc (rd : Reg) (imm : Word) (s : State) : Result := clockEdge (encode (.auipc rd imm)) s

/-- JAL: entry 2 (XLEN 32) or 2 (XLEN 64); tag J, fields by R115. -/
def execJal (rd : Reg) (imm : Word) (s : State) : Result := clockEdge (encode (.jal rd imm)) s

/-- JALR: entry 3 (XLEN 32) or 3 (XLEN 64); tag I, fields by R107. -/
def execJalr (rd rs1 : Reg) (imm : Word) (s : State) : Result := clockEdge (encode (.jalr rd rs1 imm)) s

/-- BEQ: entry 4 (XLEN 32) or 4 (XLEN 64); tag B, fields by R113. -/
def execBeq (rs1 rs2 : Reg) (imm : Word) (s : State) : Result := clockEdge (encode (.beq rs1 rs2 imm)) s

/-- BNE: entry 5 (XLEN 32) or 5 (XLEN 64); tag B, fields by R113. -/
def execBne (rs1 rs2 : Reg) (imm : Word) (s : State) : Result := clockEdge (encode (.bne rs1 rs2 imm)) s

/-- BLT: entry 6 (XLEN 32) or 6 (XLEN 64); tag B, fields by R113. -/
def execBlt (rs1 rs2 : Reg) (imm : Word) (s : State) : Result := clockEdge (encode (.blt rs1 rs2 imm)) s

/-- BGE: entry 7 (XLEN 32) or 7 (XLEN 64); tag B, fields by R113. -/
def execBge (rs1 rs2 : Reg) (imm : Word) (s : State) : Result := clockEdge (encode (.bge rs1 rs2 imm)) s

/-- BLTU: entry 8 (XLEN 32) or 8 (XLEN 64); tag B, fields by R113. -/
def execBltu (rs1 rs2 : Reg) (imm : Word) (s : State) : Result := clockEdge (encode (.bltu rs1 rs2 imm)) s

/-- BGEU: entry 9 (XLEN 32) or 9 (XLEN 64); tag B, fields by R113. -/
def execBgeu (rs1 rs2 : Reg) (imm : Word) (s : State) : Result := clockEdge (encode (.bgeu rs1 rs2 imm)) s

/-- LB: entry 10 (XLEN 32) or 10 (XLEN 64); tag I, fields by R107. -/
def execLb (rd rs1 : Reg) (imm : Word) (s : State) : Result := clockEdge (encode (.lb rd rs1 imm)) s

/-- LH: entry 11 (XLEN 32) or 11 (XLEN 64); tag I, fields by R107. -/
def execLh (rd rs1 : Reg) (imm : Word) (s : State) : Result := clockEdge (encode (.lh rd rs1 imm)) s

/-- LW: entry 12 (XLEN 32) or 12 (XLEN 64); tag I, fields by R107. -/
def execLw (rd rs1 : Reg) (imm : Word) (s : State) : Result := clockEdge (encode (.lw rd rs1 imm)) s

/-- LBU: entry 13 (XLEN 32) or 13 (XLEN 64); tag I, fields by R107. -/
def execLbu (rd rs1 : Reg) (imm : Word) (s : State) : Result := clockEdge (encode (.lbu rd rs1 imm)) s

/-- LHU: entry 14 (XLEN 32) or 14 (XLEN 64); tag I, fields by R107. -/
def execLhu (rd rs1 : Reg) (imm : Word) (s : State) : Result := clockEdge (encode (.lhu rd rs1 imm)) s

/-- SB: entry 15 (XLEN 32) or 15 (XLEN 64); tag S, fields by R112. -/
def execSb (rs1 rs2 : Reg) (imm : Word) (s : State) : Result := clockEdge (encode (.sb rs1 rs2 imm)) s

/-- SH: entry 16 (XLEN 32) or 16 (XLEN 64); tag S, fields by R112. -/
def execSh (rs1 rs2 : Reg) (imm : Word) (s : State) : Result := clockEdge (encode (.sh rs1 rs2 imm)) s

/-- SW: entry 17 (XLEN 32) or 17 (XLEN 64); tag S, fields by R112. -/
def execSw (rs1 rs2 : Reg) (imm : Word) (s : State) : Result := clockEdge (encode (.sw rs1 rs2 imm)) s

/-- ADDI: entry 18 (XLEN 32) or 18 (XLEN 64); tag I, fields by R107. -/
def execAddi (rd rs1 : Reg) (imm : Word) (s : State) : Result := clockEdge (encode (.addi rd rs1 imm)) s

/-- SLTI: entry 19 (XLEN 32) or 19 (XLEN 64); tag I, fields by R107. -/
def execSlti (rd rs1 : Reg) (imm : Word) (s : State) : Result := clockEdge (encode (.slti rd rs1 imm)) s

/-- SLTIU: entry 20 (XLEN 32) or 20 (XLEN 64); tag I, fields by R107. -/
def execSltiu (rd rs1 : Reg) (imm : Word) (s : State) : Result := clockEdge (encode (.sltiu rd rs1 imm)) s

/-- XORI: entry 21 (XLEN 32) or 21 (XLEN 64); tag I, fields by R107. -/
def execXori (rd rs1 : Reg) (imm : Word) (s : State) : Result := clockEdge (encode (.xori rd rs1 imm)) s

/-- ORI: entry 22 (XLEN 32) or 22 (XLEN 64); tag I, fields by R107. -/
def execOri (rd rs1 : Reg) (imm : Word) (s : State) : Result := clockEdge (encode (.ori rd rs1 imm)) s

/-- ANDI: entry 23 (XLEN 32) or 23 (XLEN 64); tag I, fields by R107. -/
def execAndi (rd rs1 : Reg) (imm : Word) (s : State) : Result := clockEdge (encode (.andi rd rs1 imm)) s

/-- SLLI: entry 24, XLEN 32 only; tag I_SH5, fields by R108. -/
def execSlli32 (rd rs1 : Reg) (shamt : BitVec 6) (s : State) : Result := clockEdge (encode (.slli32 rd rs1 shamt)) s

/-- SRLI: entry 25, XLEN 32 only; tag I_SH5, fields by R108. -/
def execSrli32 (rd rs1 : Reg) (shamt : BitVec 6) (s : State) : Result := clockEdge (encode (.srli32 rd rs1 shamt)) s

/-- SRAI: entry 26, XLEN 32 only; tag I_SH5, fields by R108. -/
def execSrai32 (rd rs1 : Reg) (shamt : BitVec 6) (s : State) : Result := clockEdge (encode (.srai32 rd rs1 shamt)) s

/-- ADD: entry 27 (XLEN 32) or 24 (XLEN 64); tag R, fields by R99. -/
def execAdd (rd rs1 rs2 : Reg) (s : State) : Result := clockEdge (encode (.add rd rs1 rs2)) s

/-- SUB: entry 28 (XLEN 32) or 25 (XLEN 64); tag R, fields by R99. -/
def execSub (rd rs1 rs2 : Reg) (s : State) : Result := clockEdge (encode (.sub rd rs1 rs2)) s

/-- SLL: entry 29 (XLEN 32) or 26 (XLEN 64); tag R, fields by R99. -/
def execSll (rd rs1 rs2 : Reg) (s : State) : Result := clockEdge (encode (.sll rd rs1 rs2)) s

/-- SLT: entry 30 (XLEN 32) or 27 (XLEN 64); tag R, fields by R99. -/
def execSlt (rd rs1 rs2 : Reg) (s : State) : Result := clockEdge (encode (.slt rd rs1 rs2)) s

/-- SLTU: entry 31 (XLEN 32) or 28 (XLEN 64); tag R, fields by R99. -/
def execSltu (rd rs1 rs2 : Reg) (s : State) : Result := clockEdge (encode (.sltu rd rs1 rs2)) s

/-- XOR: entry 32 (XLEN 32) or 29 (XLEN 64); tag R, fields by R99. -/
def execXor (rd rs1 rs2 : Reg) (s : State) : Result := clockEdge (encode (.xor rd rs1 rs2)) s

/-- SRL: entry 33 (XLEN 32) or 30 (XLEN 64); tag R, fields by R99. -/
def execSrl (rd rs1 rs2 : Reg) (s : State) : Result := clockEdge (encode (.srl rd rs1 rs2)) s

/-- SRA: entry 34 (XLEN 32) or 31 (XLEN 64); tag R, fields by R99. -/
def execSra (rd rs1 rs2 : Reg) (s : State) : Result := clockEdge (encode (.sra rd rs1 rs2)) s

/-- OR: entry 35 (XLEN 32) or 32 (XLEN 64); tag R, fields by R99. -/
def execOr (rd rs1 rs2 : Reg) (s : State) : Result := clockEdge (encode (.or rd rs1 rs2)) s

/-- AND: entry 36 (XLEN 32) or 33 (XLEN 64); tag R, fields by R99. -/
def execAnd (rd rs1 rs2 : Reg) (s : State) : Result := clockEdge (encode (.and rd rs1 rs2)) s

/-- FENCE: entry 37 (XLEN 32) or 34 (XLEN 64); tag I, fields by R107. Its fm, pred and succ fields are read as one immediate (R107); it orders nothing here (R46). -/
def execFence (rd rs1 : Reg) (imm : Word) (s : State) : Result := clockEdge (encode (.fence rd rs1 imm)) s

/-- ECALL: entry 38 (XLEN 32) or 35 (XLEN 64); tag NONE, fields by R98. Decoding it does not trap (R170). -/
def execEcall (s : State) : Result := clockEdge (encode .ecall) s

/-- EBREAK: entry 39 (XLEN 32) or 36 (XLEN 64); tag NONE, fields by R98. Decoding it does not trap (R170). -/
def execEbreak (s : State) : Result := clockEdge (encode .ebreak) s

end Sys2Proof.Machine
end

