-- ==== Sys2Proof/Machine/Rv64i.lean ====
section
/-! DEFINITION. The meanings of the RV64I module (R142). An instruction of this block is a word on `in_word`: its meaning is
the clock edge with that word, laid out by `encode`. At an enabled edge stage 1 takes the matcher's result for the word and
stage 2 the extractor's result for the slot before it; at the next enabled edge the operands stand on the field ports of the
instruction's tag. -/

namespace Sys2Proof.Machine

/-- SLLI: entry 37, XLEN 64 only; tag I_SH6, fields by R109. -/
def execSlli64 (rd rs1 : Reg) (shamt : BitVec 6) (s : State) : Result := clockEdge (encode (.slli64 rd rs1 shamt)) s

/-- SRLI: entry 38, XLEN 64 only; tag I_SH6, fields by R109. -/
def execSrli64 (rd rs1 : Reg) (shamt : BitVec 6) (s : State) : Result := clockEdge (encode (.srli64 rd rs1 shamt)) s

/-- SRAI: entry 39, XLEN 64 only; tag I_SH6, fields by R109. -/
def execSrai64 (rd rs1 : Reg) (shamt : BitVec 6) (s : State) : Result := clockEdge (encode (.srai64 rd rs1 shamt)) s

/-- LWU: entry 40, XLEN 64 only; tag I, fields by R107. -/
def execLwu (rd rs1 : Reg) (imm : Word) (s : State) : Result := clockEdge (encode (.lwu rd rs1 imm)) s

/-- LD: entry 41, XLEN 64 only; tag I, fields by R107. -/
def execLd (rd rs1 : Reg) (imm : Word) (s : State) : Result := clockEdge (encode (.ld rd rs1 imm)) s

/-- SD: entry 42, XLEN 64 only; tag S, fields by R112. -/
def execSd (rs1 rs2 : Reg) (imm : Word) (s : State) : Result := clockEdge (encode (.sd rs1 rs2 imm)) s

/-- ADDIW: entry 43, XLEN 64 only; tag I, fields by R107. -/
def execAddiw (rd rs1 : Reg) (imm : Word) (s : State) : Result := clockEdge (encode (.addiw rd rs1 imm)) s

/-- SLLIW: entry 44, XLEN 64 only; tag I_SH5, fields by R108. -/
def execSlliw (rd rs1 : Reg) (shamt : BitVec 6) (s : State) : Result := clockEdge (encode (.slliw rd rs1 shamt)) s

/-- SRLIW: entry 45, XLEN 64 only; tag I_SH5, fields by R108. -/
def execSrliw (rd rs1 : Reg) (shamt : BitVec 6) (s : State) : Result := clockEdge (encode (.srliw rd rs1 shamt)) s

/-- SRAIW: entry 46, XLEN 64 only; tag I_SH5, fields by R108. -/
def execSraiw (rd rs1 : Reg) (shamt : BitVec 6) (s : State) : Result := clockEdge (encode (.sraiw rd rs1 shamt)) s

/-- ADDW: entry 47, XLEN 64 only; tag R, fields by R99. -/
def execAddw (rd rs1 rs2 : Reg) (s : State) : Result := clockEdge (encode (.addw rd rs1 rs2)) s

/-- SUBW: entry 48, XLEN 64 only; tag R, fields by R99. -/
def execSubw (rd rs1 rs2 : Reg) (s : State) : Result := clockEdge (encode (.subw rd rs1 rs2)) s

/-- SLLW: entry 49, XLEN 64 only; tag R, fields by R99. -/
def execSllw (rd rs1 rs2 : Reg) (s : State) : Result := clockEdge (encode (.sllw rd rs1 rs2)) s

/-- SRLW: entry 50, XLEN 64 only; tag R, fields by R99. -/
def execSrlw (rd rs1 rs2 : Reg) (s : State) : Result := clockEdge (encode (.srlw rd rs1 rs2)) s

/-- SRAW: entry 51, XLEN 64 only; tag R, fields by R99. -/
def execSraw (rd rs1 rs2 : Reg) (s : State) : Result := clockEdge (encode (.sraw rd rs1 rs2)) s

end Sys2Proof.Machine
end

