-- ==== Sys2Proof/Machine/Rvc.lean ====
section
/-! DEFINITION. The meanings of the compressed module RVC (R154). An instruction of this block is a word on `in_word`: its meaning is
the clock edge with that word, laid out by `encode`. At an enabled edge stage 1 takes the matcher's result for the word and
stage 2 the extractor's result for the slot before it; at the next enabled edge the operands stand on the field ports of the
instruction's tag. -/

namespace Sys2Proof.Machine

/-- C.ADDI4SPN: entry 122 (XLEN 32) or 160 (XLEN 64); tag CIW, fields by R128. -/
def execCAddi4spn (rd : Reg) (imm : Word) (s : State) : Result := clockEdge (encode (.cAddi4spn rd imm)) s

/-- C.FLD: entry 123 (XLEN 32) or 161 (XLEN 64); tag CL_D, fields by R130. -/
def execCFld (rd rs1 : Reg) (imm : Word) (s : State) : Result := clockEdge (encode (.cFld rd rs1 imm)) s

/-- C.LW: entry 124 (XLEN 32) or 162 (XLEN 64); tag CL_W, fields by R129. -/
def execCLw (rd rs1 : Reg) (imm : Word) (s : State) : Result := clockEdge (encode (.cLw rd rs1 imm)) s

/-- C.FLW: entry 125, XLEN 32 only; tag CL_W, fields by R129. -/
def execCFlw (rd rs1 : Reg) (imm : Word) (s : State) : Result := clockEdge (encode (.cFlw rd rs1 imm)) s

/-- C.LD: entry 163, XLEN 64 only; tag CL_D, fields by R130. -/
def execCLd (rd rs1 : Reg) (imm : Word) (s : State) : Result := clockEdge (encode (.cLd rd rs1 imm)) s

/-- C.FSD: entry 126 (XLEN 32) or 164 (XLEN 64); tag CS_D, fields by R132. -/
def execCFsd (rs1 rs2 : Reg) (imm : Word) (s : State) : Result := clockEdge (encode (.cFsd rs1 rs2 imm)) s

/-- C.SW: entry 127 (XLEN 32) or 165 (XLEN 64); tag CS_W, fields by R131. -/
def execCSw (rs1 rs2 : Reg) (imm : Word) (s : State) : Result := clockEdge (encode (.cSw rs1 rs2 imm)) s

/-- C.FSW: entry 128, XLEN 32 only; tag CS_W, fields by R131. -/
def execCFsw (rs1 rs2 : Reg) (imm : Word) (s : State) : Result := clockEdge (encode (.cFsw rs1 rs2 imm)) s

/-- C.SD: entry 166, XLEN 64 only; tag CS_D, fields by R132. -/
def execCSd (rs1 rs2 : Reg) (imm : Word) (s : State) : Result := clockEdge (encode (.cSd rs1 rs2 imm)) s

/-- C.NOP: entry 129 (XLEN 32) or 167 (XLEN 64); tag NONE, fields by R98. -/
def execCNop (s : State) : Result := clockEdge (encode .cNop) s

/-- C.ADDI: entry 130 (XLEN 32) or 168 (XLEN 64); tag CI, fields by R120. -/
def execCAddi (rd : Reg) (imm : Word) (s : State) : Result := clockEdge (encode (.cAddi rd imm)) s

/-- C.JAL: entry 131, XLEN 32 only; tag CJ, fields by R137. -/
def execCJal (imm : Word) (s : State) : Result := clockEdge (encode (.cJal imm)) s

/-- C.ADDIW: entry 169, XLEN 64 only; tag CI, fields by R120. -/
def execCAddiw (rd : Reg) (imm : Word) (s : State) : Result := clockEdge (encode (.cAddiw rd imm)) s

/-- C.LI: entry 132 (XLEN 32) or 170 (XLEN 64); tag CI, fields by R120. -/
def execCLi (rd : Reg) (imm : Word) (s : State) : Result := clockEdge (encode (.cLi rd imm)) s

/-- C.ADDI16SP: entry 133 (XLEN 32) or 171 (XLEN 64); tag CI_ADDI16SP, fields by R122. -/
def execCAddi16sp (imm : Word) (s : State) : Result := clockEdge (encode (.cAddi16sp imm)) s

/-- C.LUI: entry 134 (XLEN 32) or 172 (XLEN 64); tag CI_LUI, fields by R121. -/
def execCLui (rd : Reg) (imm : Word) (s : State) : Result := clockEdge (encode (.cLui rd imm)) s

/-- C.SRLI: entry 135, XLEN 32 only; tag CB_SH, fields by R135. -/
def execCSrli32 (rd : Reg) (shamt : BitVec 6) (s : State) : Result := clockEdge (encode (.cSrli32 rd shamt)) s

/-- C.SRLI: entry 173, XLEN 64 only; tag CB_SH, fields by R135. -/
def execCSrli64 (rd : Reg) (shamt : BitVec 6) (s : State) : Result := clockEdge (encode (.cSrli64 rd shamt)) s

/-- C.SRAI: entry 136, XLEN 32 only; tag CB_SH, fields by R135. -/
def execCSrai32 (rd : Reg) (shamt : BitVec 6) (s : State) : Result := clockEdge (encode (.cSrai32 rd shamt)) s

/-- C.SRAI: entry 174, XLEN 64 only; tag CB_SH, fields by R135. -/
def execCSrai64 (rd : Reg) (shamt : BitVec 6) (s : State) : Result := clockEdge (encode (.cSrai64 rd shamt)) s

/-- C.ANDI: entry 137 (XLEN 32) or 175 (XLEN 64); tag CB_ANDI, fields by R136. -/
def execCAndi (rd : Reg) (imm : Word) (s : State) : Result := clockEdge (encode (.cAndi rd imm)) s

/-- C.SUB: entry 138 (XLEN 32) or 176 (XLEN 64); tag CA, fields by R133. -/
def execCSub (rd rs2 : Reg) (s : State) : Result := clockEdge (encode (.cSub rd rs2)) s

/-- C.XOR: entry 139 (XLEN 32) or 177 (XLEN 64); tag CA, fields by R133. -/
def execCXor (rd rs2 : Reg) (s : State) : Result := clockEdge (encode (.cXor rd rs2)) s

/-- C.OR: entry 140 (XLEN 32) or 178 (XLEN 64); tag CA, fields by R133. -/
def execCOr (rd rs2 : Reg) (s : State) : Result := clockEdge (encode (.cOr rd rs2)) s

/-- C.AND: entry 141 (XLEN 32) or 179 (XLEN 64); tag CA, fields by R133. -/
def execCAnd (rd rs2 : Reg) (s : State) : Result := clockEdge (encode (.cAnd rd rs2)) s

/-- C.SUBW: entry 180, XLEN 64 only; tag CA, fields by R133. -/
def execCSubw (rd rs2 : Reg) (s : State) : Result := clockEdge (encode (.cSubw rd rs2)) s

/-- C.ADDW: entry 181, XLEN 64 only; tag CA, fields by R133. -/
def execCAddw (rd rs2 : Reg) (s : State) : Result := clockEdge (encode (.cAddw rd rs2)) s

/-- C.J: entry 142 (XLEN 32) or 182 (XLEN 64); tag CJ, fields by R137. -/
def execCJ (imm : Word) (s : State) : Result := clockEdge (encode (.cJ imm)) s

/-- C.BEQZ: entry 143 (XLEN 32) or 183 (XLEN 64); tag CB_BR, fields by R134. -/
def execCBeqz (rs1 : Reg) (imm : Word) (s : State) : Result := clockEdge (encode (.cBeqz rs1 imm)) s

/-- C.BNEZ: entry 144 (XLEN 32) or 184 (XLEN 64); tag CB_BR, fields by R134. -/
def execCBnez (rs1 : Reg) (imm : Word) (s : State) : Result := clockEdge (encode (.cBnez rs1 imm)) s

/-- C.SLLI: entry 145, XLEN 32 only; tag CI_SH, fields by R123. -/
def execCSlli32 (rd : Reg) (shamt : BitVec 6) (s : State) : Result := clockEdge (encode (.cSlli32 rd shamt)) s

/-- C.SLLI: entry 185, XLEN 64 only; tag CI_SH, fields by R123. -/
def execCSlli64 (rd : Reg) (shamt : BitVec 6) (s : State) : Result := clockEdge (encode (.cSlli64 rd shamt)) s

/-- C.FLDSP: entry 146 (XLEN 32) or 186 (XLEN 64); tag CI_LDSP, fields by R125. -/
def execCFldsp (rd : Reg) (imm : Word) (s : State) : Result := clockEdge (encode (.cFldsp rd imm)) s

/-- C.LWSP: entry 147 (XLEN 32) or 187 (XLEN 64); tag CI_LWSP, fields by R124. -/
def execCLwsp (rd : Reg) (imm : Word) (s : State) : Result := clockEdge (encode (.cLwsp rd imm)) s

/-- C.FLWSP: entry 148, XLEN 32 only; tag CI_LWSP, fields by R124. -/
def execCFlwsp (rd : Reg) (imm : Word) (s : State) : Result := clockEdge (encode (.cFlwsp rd imm)) s

/-- C.LDSP: entry 188, XLEN 64 only; tag CI_LDSP, fields by R125. -/
def execCLdsp (rd : Reg) (imm : Word) (s : State) : Result := clockEdge (encode (.cLdsp rd imm)) s

/-- C.EBREAK: entry 149 (XLEN 32) or 189 (XLEN 64); tag NONE, fields by R98. Decoding it does not trap (R170). -/
def execCEbreak (s : State) : Result := clockEdge (encode .cEbreak) s

/-- C.JR: entry 150 (XLEN 32) or 190 (XLEN 64); tag CR_JR, fields by R119. -/
def execCJr (rs1 : Reg) (s : State) : Result := clockEdge (encode (.cJr rs1)) s

/-- C.MV: entry 151 (XLEN 32) or 191 (XLEN 64); tag CR, fields by R118. -/
def execCMv (rd rs2 : Reg) (s : State) : Result := clockEdge (encode (.cMv rd rs2)) s

/-- C.JALR: entry 152 (XLEN 32) or 192 (XLEN 64); tag CR_JR, fields by R119. -/
def execCJalr (rs1 : Reg) (s : State) : Result := clockEdge (encode (.cJalr rs1)) s

/-- C.ADD: entry 153 (XLEN 32) or 193 (XLEN 64); tag CR, fields by R118. -/
def execCAdd (rd rs2 : Reg) (s : State) : Result := clockEdge (encode (.cAdd rd rs2)) s

/-- C.FSDSP: entry 154 (XLEN 32) or 194 (XLEN 64); tag CSS_SDSP, fields by R127. -/
def execCFsdsp (rs2 : Reg) (imm : Word) (s : State) : Result := clockEdge (encode (.cFsdsp rs2 imm)) s

/-- C.SWSP: entry 155 (XLEN 32) or 195 (XLEN 64); tag CSS_SWSP, fields by R126. -/
def execCSwsp (rs2 : Reg) (imm : Word) (s : State) : Result := clockEdge (encode (.cSwsp rs2 imm)) s

/-- C.FSWSP: entry 156, XLEN 32 only; tag CSS_SWSP, fields by R126. -/
def execCFswsp (rs2 : Reg) (imm : Word) (s : State) : Result := clockEdge (encode (.cFswsp rs2 imm)) s

/-- C.SDSP: entry 196, XLEN 64 only; tag CSS_SDSP, fields by R127. -/
def execCSdsp (rs2 : Reg) (imm : Word) (s : State) : Result := clockEdge (encode (.cSdsp rs2 imm)) s

end Sys2Proof.Machine
end

