-- ==== Sys2Proof/Machine/Single.lean ====
section
/-! DEFINITION. The meanings of the single-precision modules RV32F and RV64F (R149, R150). An instruction of this block is a word on `in_word`: its meaning is
the clock edge with that word, laid out by `encode`. At an enabled edge stage 1 takes the matcher's result for the word and
stage 2 the extractor's result for the slot before it; at the next enabled edge the operands stand on the field ports of the
instruction's tag. -/

namespace Sys2Proof.Machine

/-- FLW: entry 66 (XLEN 32) or 94 (XLEN 64); tag I, fields by R107. -/
def execFlw (rd rs1 : Reg) (imm : Word) (s : State) : Result := clockEdge (encode (.flw rd rs1 imm)) s

/-- FSW: entry 67 (XLEN 32) or 95 (XLEN 64); tag S, fields by R112. -/
def execFsw (rs1 rs2 : Reg) (imm : Word) (s : State) : Result := clockEdge (encode (.fsw rs1 rs2 imm)) s

/-- FMADD.S: entry 68 (XLEN 32) or 96 (XLEN 64); tag R4_RM, fields by R104. -/
def execFmaddS (rd rs1 rs2 rs3 : Reg) (rm : BitVec 3) (s : State) : Result := clockEdge (encode (.fmaddS rd rs1 rs2 rs3 rm)) s

/-- FMSUB.S: entry 69 (XLEN 32) or 97 (XLEN 64); tag R4_RM, fields by R104. -/
def execFmsubS (rd rs1 rs2 rs3 : Reg) (rm : BitVec 3) (s : State) : Result := clockEdge (encode (.fmsubS rd rs1 rs2 rs3 rm)) s

/-- FNMSUB.S: entry 70 (XLEN 32) or 98 (XLEN 64); tag R4_RM, fields by R104. -/
def execFnmsubS (rd rs1 rs2 rs3 : Reg) (rm : BitVec 3) (s : State) : Result := clockEdge (encode (.fnmsubS rd rs1 rs2 rs3 rm)) s

/-- FNMADD.S: entry 71 (XLEN 32) or 99 (XLEN 64); tag R4_RM, fields by R104. -/
def execFnmaddS (rd rs1 rs2 rs3 : Reg) (rm : BitVec 3) (s : State) : Result := clockEdge (encode (.fnmaddS rd rs1 rs2 rs3 rm)) s

/-- FADD.S: entry 72 (XLEN 32) or 100 (XLEN 64); tag R_RM, fields by R102. -/
def execFaddS (rd rs1 rs2 : Reg) (rm : BitVec 3) (s : State) : Result := clockEdge (encode (.faddS rd rs1 rs2 rm)) s

/-- FSUB.S: entry 73 (XLEN 32) or 101 (XLEN 64); tag R_RM, fields by R102. -/
def execFsubS (rd rs1 rs2 : Reg) (rm : BitVec 3) (s : State) : Result := clockEdge (encode (.fsubS rd rs1 rs2 rm)) s

/-- FMUL.S: entry 74 (XLEN 32) or 102 (XLEN 64); tag R_RM, fields by R102. -/
def execFmulS (rd rs1 rs2 : Reg) (rm : BitVec 3) (s : State) : Result := clockEdge (encode (.fmulS rd rs1 rs2 rm)) s

/-- FDIV.S: entry 75 (XLEN 32) or 103 (XLEN 64); tag R_RM, fields by R102. -/
def execFdivS (rd rs1 rs2 : Reg) (rm : BitVec 3) (s : State) : Result := clockEdge (encode (.fdivS rd rs1 rs2 rm)) s

/-- FSQRT.S: entry 76 (XLEN 32) or 104 (XLEN 64); tag R2_RM, fields by R103. -/
def execFsqrtS (rd rs1 : Reg) (rm : BitVec 3) (s : State) : Result := clockEdge (encode (.fsqrtS rd rs1 rm)) s

/-- FSGNJ.S: entry 77 (XLEN 32) or 105 (XLEN 64); tag R, fields by R99. -/
def execFsgnjS (rd rs1 rs2 : Reg) (s : State) : Result := clockEdge (encode (.fsgnjS rd rs1 rs2)) s

/-- FSGNJN.S: entry 78 (XLEN 32) or 106 (XLEN 64); tag R, fields by R99. -/
def execFsgnjnS (rd rs1 rs2 : Reg) (s : State) : Result := clockEdge (encode (.fsgnjnS rd rs1 rs2)) s

/-- FSGNJX.S: entry 79 (XLEN 32) or 107 (XLEN 64); tag R, fields by R99. -/
def execFsgnjxS (rd rs1 rs2 : Reg) (s : State) : Result := clockEdge (encode (.fsgnjxS rd rs1 rs2)) s

/-- FMIN.S: entry 80 (XLEN 32) or 108 (XLEN 64); tag R, fields by R99. -/
def execFminS (rd rs1 rs2 : Reg) (s : State) : Result := clockEdge (encode (.fminS rd rs1 rs2)) s

/-- FMAX.S: entry 81 (XLEN 32) or 109 (XLEN 64); tag R, fields by R99. -/
def execFmaxS (rd rs1 rs2 : Reg) (s : State) : Result := clockEdge (encode (.fmaxS rd rs1 rs2)) s

/-- FEQ.S: entry 82 (XLEN 32) or 110 (XLEN 64); tag R, fields by R99. -/
def execFeqS (rd rs1 rs2 : Reg) (s : State) : Result := clockEdge (encode (.feqS rd rs1 rs2)) s

/-- FLT.S: entry 83 (XLEN 32) or 111 (XLEN 64); tag R, fields by R99. -/
def execFltS (rd rs1 rs2 : Reg) (s : State) : Result := clockEdge (encode (.fltS rd rs1 rs2)) s

/-- FLE.S: entry 84 (XLEN 32) or 112 (XLEN 64); tag R, fields by R99. -/
def execFleS (rd rs1 rs2 : Reg) (s : State) : Result := clockEdge (encode (.fleS rd rs1 rs2)) s

/-- FCLASS.S: entry 85 (XLEN 32) or 113 (XLEN 64); tag R2, fields by R100. -/
def execFclassS (rd rs1 : Reg) (s : State) : Result := clockEdge (encode (.fclassS rd rs1)) s

/-- FCVT.W.S: entry 86 (XLEN 32) or 114 (XLEN 64); tag R2_RM, fields by R103. -/
def execFcvtWS (rd rs1 : Reg) (rm : BitVec 3) (s : State) : Result := clockEdge (encode (.fcvtWS rd rs1 rm)) s

/-- FCVT.WU.S: entry 87 (XLEN 32) or 115 (XLEN 64); tag R2_RM, fields by R103. -/
def execFcvtWUS (rd rs1 : Reg) (rm : BitVec 3) (s : State) : Result := clockEdge (encode (.fcvtWUS rd rs1 rm)) s

/-- FCVT.S.W: entry 88 (XLEN 32) or 116 (XLEN 64); tag R2_RM, fields by R103. -/
def execFcvtSW (rd rs1 : Reg) (rm : BitVec 3) (s : State) : Result := clockEdge (encode (.fcvtSW rd rs1 rm)) s

/-- FCVT.S.WU: entry 89 (XLEN 32) or 117 (XLEN 64); tag R2_RM, fields by R103. -/
def execFcvtSWU (rd rs1 : Reg) (rm : BitVec 3) (s : State) : Result := clockEdge (encode (.fcvtSWU rd rs1 rm)) s

/-- FMV.X.W: entry 90 (XLEN 32) or 118 (XLEN 64); tag R2, fields by R100. -/
def execFmvXW (rd rs1 : Reg) (s : State) : Result := clockEdge (encode (.fmvXW rd rs1)) s

/-- FMV.W.X: entry 91 (XLEN 32) or 119 (XLEN 64); tag R2, fields by R100. -/
def execFmvWX (rd rs1 : Reg) (s : State) : Result := clockEdge (encode (.fmvWX rd rs1)) s

/-- FCVT.L.S: entry 120, XLEN 64 only; tag R2_RM, fields by R103. -/
def execFcvtLS (rd rs1 : Reg) (rm : BitVec 3) (s : State) : Result := clockEdge (encode (.fcvtLS rd rs1 rm)) s

/-- FCVT.LU.S: entry 121, XLEN 64 only; tag R2_RM, fields by R103. -/
def execFcvtLUS (rd rs1 : Reg) (rm : BitVec 3) (s : State) : Result := clockEdge (encode (.fcvtLUS rd rs1 rm)) s

/-- FCVT.S.L: entry 122, XLEN 64 only; tag R2_RM, fields by R103. -/
def execFcvtSL (rd rs1 : Reg) (rm : BitVec 3) (s : State) : Result := clockEdge (encode (.fcvtSL rd rs1 rm)) s

/-- FCVT.S.LU: entry 123, XLEN 64 only; tag R2_RM, fields by R103. -/
def execFcvtSLU (rd rs1 : Reg) (rm : BitVec 3) (s : State) : Result := clockEdge (encode (.fcvtSLU rd rs1 rm)) s

end Sys2Proof.Machine
end

