-- ==== Sys2Proof/Machine/Zicsr.lean ====
section
/-! DEFINITION. The meanings of the Zicsr module (R144). An instruction of this block is a word on `in_word`: its meaning is
the clock edge with that word, laid out by `encode`. At an enabled edge stage 1 takes the matcher's result for the word and
stage 2 the extractor's result for the slot before it; at the next enabled edge the operands stand on the field ports of the
instruction's tag. -/

namespace Sys2Proof.Machine

/-- CSRRW: entry 41 (XLEN 32) or 53 (XLEN 64); tag I_CSR, fields by R110. -/
def execCsrrw (rd rs1 : Reg) (csr : BitVec 12) (s : State) : Result := clockEdge (encode (.csrrw rd rs1 csr)) s

/-- CSRRS: entry 42 (XLEN 32) or 54 (XLEN 64); tag I_CSR, fields by R110. -/
def execCsrrs (rd rs1 : Reg) (csr : BitVec 12) (s : State) : Result := clockEdge (encode (.csrrs rd rs1 csr)) s

/-- CSRRC: entry 43 (XLEN 32) or 55 (XLEN 64); tag I_CSR, fields by R110. -/
def execCsrrc (rd rs1 : Reg) (csr : BitVec 12) (s : State) : Result := clockEdge (encode (.csrrc rd rs1 csr)) s

/-- CSRRWI: entry 44 (XLEN 32) or 56 (XLEN 64); tag I_CSRI, fields by R111. -/
def execCsrrwi (rd : Reg) (imm : Word) (csr : BitVec 12) (s : State) : Result := clockEdge (encode (.csrrwi rd imm csr)) s

/-- CSRRSI: entry 45 (XLEN 32) or 57 (XLEN 64); tag I_CSRI, fields by R111. -/
def execCsrrsi (rd : Reg) (imm : Word) (csr : BitVec 12) (s : State) : Result := clockEdge (encode (.csrrsi rd imm csr)) s

/-- CSRRCI: entry 46 (XLEN 32) or 58 (XLEN 64); tag I_CSRI, fields by R111. -/
def execCsrrci (rd : Reg) (imm : Word) (csr : BitVec 12) (s : State) : Result := clockEdge (encode (.csrrci rd imm csr)) s

end Sys2Proof.Machine
end

