-- ==== Sys2Proof/Machine/Zifencei.lean ====
section
/-! DEFINITION. The meanings of the Zifencei module (R143). An instruction of this block is a word on `in_word`: its meaning is
the clock edge with that word, laid out by `encode`. At an enabled edge stage 1 takes the matcher's result for the word and
stage 2 the extractor's result for the slot before it; at the next enabled edge the operands stand on the field ports of the
instruction's tag. -/

namespace Sys2Proof.Machine

/-- FENCE.I: entry 40 (XLEN 32) or 52 (XLEN 64); tag NONE, fields by R98. It orders nothing here (R46). -/
def execFenceI (s : State) : Result := clockEdge (encode .fenceI) s

end Sys2Proof.Machine
end

