-- ==== Sys2Proof/Machine/Dispatch.lean ====
section
/-! DEFINITION. The dispatch of an instruction to its meaning, one arm a constructor. -/

namespace Sys2Proof.Machine

def exec (i : Instr) (s : State) : Host.Outcome State Fault Refusal :=
  match i with
  | .lui rd imm => Sys2Proof.Machine.execLui rd imm s
  | .auipc rd imm => Sys2Proof.Machine.execAuipc rd imm s
  | .jal rd imm => Sys2Proof.Machine.execJal rd imm s
  | .jalr rd rs1 imm => Sys2Proof.Machine.execJalr rd rs1 imm s
  | .beq rs1 rs2 imm => Sys2Proof.Machine.execBeq rs1 rs2 imm s
  | .bne rs1 rs2 imm => Sys2Proof.Machine.execBne rs1 rs2 imm s
  | .blt rs1 rs2 imm => Sys2Proof.Machine.execBlt rs1 rs2 imm s
  | .bge rs1 rs2 imm => Sys2Proof.Machine.execBge rs1 rs2 imm s
  | .bltu rs1 rs2 imm => Sys2Proof.Machine.execBltu rs1 rs2 imm s
  | .bgeu rs1 rs2 imm => Sys2Proof.Machine.execBgeu rs1 rs2 imm s
  | .lb rd rs1 imm => Sys2Proof.Machine.execLb rd rs1 imm s
  | .lh rd rs1 imm => Sys2Proof.Machine.execLh rd rs1 imm s
  | .lw rd rs1 imm => Sys2Proof.Machine.execLw rd rs1 imm s
  | .lbu rd rs1 imm => Sys2Proof.Machine.execLbu rd rs1 imm s
  | .lhu rd rs1 imm => Sys2Proof.Machine.execLhu rd rs1 imm s
  | .sb rs1 rs2 imm => Sys2Proof.Machine.execSb rs1 rs2 imm s
  | .sh rs1 rs2 imm => Sys2Proof.Machine.execSh rs1 rs2 imm s
  | .sw rs1 rs2 imm => Sys2Proof.Machine.execSw rs1 rs2 imm s
  | .addi rd rs1 imm => Sys2Proof.Machine.execAddi rd rs1 imm s
  | .slti rd rs1 imm => Sys2Proof.Machine.execSlti rd rs1 imm s
  | .sltiu rd rs1 imm => Sys2Proof.Machine.execSltiu rd rs1 imm s
  | .xori rd rs1 imm => Sys2Proof.Machine.execXori rd rs1 imm s
  | .ori rd rs1 imm => Sys2Proof.Machine.execOri rd rs1 imm s
  | .andi rd rs1 imm => Sys2Proof.Machine.execAndi rd rs1 imm s
  | .slli32 rd rs1 shamt => Sys2Proof.Machine.execSlli32 rd rs1 shamt s
  | .srli32 rd rs1 shamt => Sys2Proof.Machine.execSrli32 rd rs1 shamt s
  | .srai32 rd rs1 shamt => Sys2Proof.Machine.execSrai32 rd rs1 shamt s
  | .add rd rs1 rs2 => Sys2Proof.Machine.execAdd rd rs1 rs2 s
  | .sub rd rs1 rs2 => Sys2Proof.Machine.execSub rd rs1 rs2 s
  | .sll rd rs1 rs2 => Sys2Proof.Machine.execSll rd rs1 rs2 s
  | .slt rd rs1 rs2 => Sys2Proof.Machine.execSlt rd rs1 rs2 s
  | .sltu rd rs1 rs2 => Sys2Proof.Machine.execSltu rd rs1 rs2 s
  | .xor rd rs1 rs2 => Sys2Proof.Machine.execXor rd rs1 rs2 s
  | .srl rd rs1 rs2 => Sys2Proof.Machine.execSrl rd rs1 rs2 s
  | .sra rd rs1 rs2 => Sys2Proof.Machine.execSra rd rs1 rs2 s
  | .or rd rs1 rs2 => Sys2Proof.Machine.execOr rd rs1 rs2 s
  | .and rd rs1 rs2 => Sys2Proof.Machine.execAnd rd rs1 rs2 s
  | .fence rd rs1 imm => Sys2Proof.Machine.execFence rd rs1 imm s
  | .ecall => Sys2Proof.Machine.execEcall s
  | .ebreak => Sys2Proof.Machine.execEbreak s
  | .fenceI => Sys2Proof.Machine.execFenceI s
  | .csrrw rd rs1 csr => Sys2Proof.Machine.execCsrrw rd rs1 csr s
  | .csrrs rd rs1 csr => Sys2Proof.Machine.execCsrrs rd rs1 csr s
  | .csrrc rd rs1 csr => Sys2Proof.Machine.execCsrrc rd rs1 csr s
  | .csrrwi rd imm csr => Sys2Proof.Machine.execCsrrwi rd imm csr s
  | .csrrsi rd imm csr => Sys2Proof.Machine.execCsrrsi rd imm csr s
  | .csrrci rd imm csr => Sys2Proof.Machine.execCsrrci rd imm csr s
  | .mul rd rs1 rs2 => Sys2Proof.Machine.execMul rd rs1 rs2 s
  | .mulh rd rs1 rs2 => Sys2Proof.Machine.execMulh rd rs1 rs2 s
  | .mulhsu rd rs1 rs2 => Sys2Proof.Machine.execMulhsu rd rs1 rs2 s
  | .mulhu rd rs1 rs2 => Sys2Proof.Machine.execMulhu rd rs1 rs2 s
  | .div rd rs1 rs2 => Sys2Proof.Machine.execDiv rd rs1 rs2 s
  | .divu rd rs1 rs2 => Sys2Proof.Machine.execDivu rd rs1 rs2 s
  | .rem rd rs1 rs2 => Sys2Proof.Machine.execRem rd rs1 rs2 s
  | .remu rd rs1 rs2 => Sys2Proof.Machine.execRemu rd rs1 rs2 s
  | .lrW rd rs1 aq rl => Sys2Proof.Machine.execLrW rd rs1 aq rl s
  | .scW rd rs1 rs2 aq rl => Sys2Proof.Machine.execScW rd rs1 rs2 aq rl s
  | .amoswapW rd rs1 rs2 aq rl => Sys2Proof.Machine.execAmoswapW rd rs1 rs2 aq rl s
  | .amoaddW rd rs1 rs2 aq rl => Sys2Proof.Machine.execAmoaddW rd rs1 rs2 aq rl s
  | .amoxorW rd rs1 rs2 aq rl => Sys2Proof.Machine.execAmoxorW rd rs1 rs2 aq rl s
  | .amoandW rd rs1 rs2 aq rl => Sys2Proof.Machine.execAmoandW rd rs1 rs2 aq rl s
  | .amoorW rd rs1 rs2 aq rl => Sys2Proof.Machine.execAmoorW rd rs1 rs2 aq rl s
  | .amominW rd rs1 rs2 aq rl => Sys2Proof.Machine.execAmominW rd rs1 rs2 aq rl s
  | .amomaxW rd rs1 rs2 aq rl => Sys2Proof.Machine.execAmomaxW rd rs1 rs2 aq rl s
  | .amominuW rd rs1 rs2 aq rl => Sys2Proof.Machine.execAmominuW rd rs1 rs2 aq rl s
  | .amomaxuW rd rs1 rs2 aq rl => Sys2Proof.Machine.execAmomaxuW rd rs1 rs2 aq rl s
  | .flw rd rs1 imm => Sys2Proof.Machine.execFlw rd rs1 imm s
  | .fsw rs1 rs2 imm => Sys2Proof.Machine.execFsw rs1 rs2 imm s
  | .fmaddS rd rs1 rs2 rs3 rm => Sys2Proof.Machine.execFmaddS rd rs1 rs2 rs3 rm s
  | .fmsubS rd rs1 rs2 rs3 rm => Sys2Proof.Machine.execFmsubS rd rs1 rs2 rs3 rm s
  | .fnmsubS rd rs1 rs2 rs3 rm => Sys2Proof.Machine.execFnmsubS rd rs1 rs2 rs3 rm s
  | .fnmaddS rd rs1 rs2 rs3 rm => Sys2Proof.Machine.execFnmaddS rd rs1 rs2 rs3 rm s
  | .faddS rd rs1 rs2 rm => Sys2Proof.Machine.execFaddS rd rs1 rs2 rm s
  | .fsubS rd rs1 rs2 rm => Sys2Proof.Machine.execFsubS rd rs1 rs2 rm s
  | .fmulS rd rs1 rs2 rm => Sys2Proof.Machine.execFmulS rd rs1 rs2 rm s
  | .fdivS rd rs1 rs2 rm => Sys2Proof.Machine.execFdivS rd rs1 rs2 rm s
  | .fsqrtS rd rs1 rm => Sys2Proof.Machine.execFsqrtS rd rs1 rm s
  | .fsgnjS rd rs1 rs2 => Sys2Proof.Machine.execFsgnjS rd rs1 rs2 s
  | .fsgnjnS rd rs1 rs2 => Sys2Proof.Machine.execFsgnjnS rd rs1 rs2 s
  | .fsgnjxS rd rs1 rs2 => Sys2Proof.Machine.execFsgnjxS rd rs1 rs2 s
  | .fminS rd rs1 rs2 => Sys2Proof.Machine.execFminS rd rs1 rs2 s
  | .fmaxS rd rs1 rs2 => Sys2Proof.Machine.execFmaxS rd rs1 rs2 s
  | .feqS rd rs1 rs2 => Sys2Proof.Machine.execFeqS rd rs1 rs2 s
  | .fltS rd rs1 rs2 => Sys2Proof.Machine.execFltS rd rs1 rs2 s
  | .fleS rd rs1 rs2 => Sys2Proof.Machine.execFleS rd rs1 rs2 s
  | .fclassS rd rs1 => Sys2Proof.Machine.execFclassS rd rs1 s
  | .fcvtWS rd rs1 rm => Sys2Proof.Machine.execFcvtWS rd rs1 rm s
  | .fcvtWUS rd rs1 rm => Sys2Proof.Machine.execFcvtWUS rd rs1 rm s
  | .fcvtSW rd rs1 rm => Sys2Proof.Machine.execFcvtSW rd rs1 rm s
  | .fcvtSWU rd rs1 rm => Sys2Proof.Machine.execFcvtSWU rd rs1 rm s
  | .fmvXW rd rs1 => Sys2Proof.Machine.execFmvXW rd rs1 s
  | .fmvWX rd rs1 => Sys2Proof.Machine.execFmvWX rd rs1 s
  | .fld rd rs1 imm => Sys2Proof.Machine.execFld rd rs1 imm s
  | .fsd rs1 rs2 imm => Sys2Proof.Machine.execFsd rs1 rs2 imm s
  | .fmaddD rd rs1 rs2 rs3 rm => Sys2Proof.Machine.execFmaddD rd rs1 rs2 rs3 rm s
  | .fmsubD rd rs1 rs2 rs3 rm => Sys2Proof.Machine.execFmsubD rd rs1 rs2 rs3 rm s
  | .fnmsubD rd rs1 rs2 rs3 rm => Sys2Proof.Machine.execFnmsubD rd rs1 rs2 rs3 rm s
  | .fnmaddD rd rs1 rs2 rs3 rm => Sys2Proof.Machine.execFnmaddD rd rs1 rs2 rs3 rm s
  | .faddD rd rs1 rs2 rm => Sys2Proof.Machine.execFaddD rd rs1 rs2 rm s
  | .fsubD rd rs1 rs2 rm => Sys2Proof.Machine.execFsubD rd rs1 rs2 rm s
  | .fmulD rd rs1 rs2 rm => Sys2Proof.Machine.execFmulD rd rs1 rs2 rm s
  | .fdivD rd rs1 rs2 rm => Sys2Proof.Machine.execFdivD rd rs1 rs2 rm s
  | .fsqrtD rd rs1 rm => Sys2Proof.Machine.execFsqrtD rd rs1 rm s
  | .fsgnjD rd rs1 rs2 => Sys2Proof.Machine.execFsgnjD rd rs1 rs2 s
  | .fsgnjnD rd rs1 rs2 => Sys2Proof.Machine.execFsgnjnD rd rs1 rs2 s
  | .fsgnjxD rd rs1 rs2 => Sys2Proof.Machine.execFsgnjxD rd rs1 rs2 s
  | .fminD rd rs1 rs2 => Sys2Proof.Machine.execFminD rd rs1 rs2 s
  | .fmaxD rd rs1 rs2 => Sys2Proof.Machine.execFmaxD rd rs1 rs2 s
  | .fcvtSD rd rs1 rm => Sys2Proof.Machine.execFcvtSD rd rs1 rm s
  | .fcvtDS rd rs1 rm => Sys2Proof.Machine.execFcvtDS rd rs1 rm s
  | .feqD rd rs1 rs2 => Sys2Proof.Machine.execFeqD rd rs1 rs2 s
  | .fltD rd rs1 rs2 => Sys2Proof.Machine.execFltD rd rs1 rs2 s
  | .fleD rd rs1 rs2 => Sys2Proof.Machine.execFleD rd rs1 rs2 s
  | .fclassD rd rs1 => Sys2Proof.Machine.execFclassD rd rs1 s
  | .fcvtWD rd rs1 rm => Sys2Proof.Machine.execFcvtWD rd rs1 rm s
  | .fcvtWUD rd rs1 rm => Sys2Proof.Machine.execFcvtWUD rd rs1 rm s
  | .fcvtDW rd rs1 rm => Sys2Proof.Machine.execFcvtDW rd rs1 rm s
  | .fcvtDWU rd rs1 rm => Sys2Proof.Machine.execFcvtDWU rd rs1 rm s
  | .sret => Sys2Proof.Machine.execSret s
  | .mret => Sys2Proof.Machine.execMret s
  | .wfi => Sys2Proof.Machine.execWfi s
  | .sfenceVma rs1 rs2 => Sys2Proof.Machine.execSfenceVma rs1 rs2 s
  | .cAddi4spn rd imm => Sys2Proof.Machine.execCAddi4spn rd imm s
  | .cFld rd rs1 imm => Sys2Proof.Machine.execCFld rd rs1 imm s
  | .cLw rd rs1 imm => Sys2Proof.Machine.execCLw rd rs1 imm s
  | .cFlw rd rs1 imm => Sys2Proof.Machine.execCFlw rd rs1 imm s
  | .cFsd rs1 rs2 imm => Sys2Proof.Machine.execCFsd rs1 rs2 imm s
  | .cSw rs1 rs2 imm => Sys2Proof.Machine.execCSw rs1 rs2 imm s
  | .cFsw rs1 rs2 imm => Sys2Proof.Machine.execCFsw rs1 rs2 imm s
  | .cNop => Sys2Proof.Machine.execCNop s
  | .cAddi rd imm => Sys2Proof.Machine.execCAddi rd imm s
  | .cJal imm => Sys2Proof.Machine.execCJal imm s
  | .cLi rd imm => Sys2Proof.Machine.execCLi rd imm s
  | .cAddi16sp imm => Sys2Proof.Machine.execCAddi16sp imm s
  | .cLui rd imm => Sys2Proof.Machine.execCLui rd imm s
  | .cSrli32 rd shamt => Sys2Proof.Machine.execCSrli32 rd shamt s
  | .cSrai32 rd shamt => Sys2Proof.Machine.execCSrai32 rd shamt s
  | .cAndi rd imm => Sys2Proof.Machine.execCAndi rd imm s
  | .cSub rd rs2 => Sys2Proof.Machine.execCSub rd rs2 s
  | .cXor rd rs2 => Sys2Proof.Machine.execCXor rd rs2 s
  | .cOr rd rs2 => Sys2Proof.Machine.execCOr rd rs2 s
  | .cAnd rd rs2 => Sys2Proof.Machine.execCAnd rd rs2 s
  | .cJ imm => Sys2Proof.Machine.execCJ imm s
  | .cBeqz rs1 imm => Sys2Proof.Machine.execCBeqz rs1 imm s
  | .cBnez rs1 imm => Sys2Proof.Machine.execCBnez rs1 imm s
  | .cSlli32 rd shamt => Sys2Proof.Machine.execCSlli32 rd shamt s
  | .cFldsp rd imm => Sys2Proof.Machine.execCFldsp rd imm s
  | .cLwsp rd imm => Sys2Proof.Machine.execCLwsp rd imm s
  | .cFlwsp rd imm => Sys2Proof.Machine.execCFlwsp rd imm s
  | .cEbreak => Sys2Proof.Machine.execCEbreak s
  | .cJr rs1 => Sys2Proof.Machine.execCJr rs1 s
  | .cMv rd rs2 => Sys2Proof.Machine.execCMv rd rs2 s
  | .cJalr rs1 => Sys2Proof.Machine.execCJalr rs1 s
  | .cAdd rd rs2 => Sys2Proof.Machine.execCAdd rd rs2 s
  | .cFsdsp rs2 imm => Sys2Proof.Machine.execCFsdsp rs2 imm s
  | .cSwsp rs2 imm => Sys2Proof.Machine.execCSwsp rs2 imm s
  | .cFswsp rs2 imm => Sys2Proof.Machine.execCFswsp rs2 imm s
  | .slli64 rd rs1 shamt => Sys2Proof.Machine.execSlli64 rd rs1 shamt s
  | .srli64 rd rs1 shamt => Sys2Proof.Machine.execSrli64 rd rs1 shamt s
  | .srai64 rd rs1 shamt => Sys2Proof.Machine.execSrai64 rd rs1 shamt s
  | .lwu rd rs1 imm => Sys2Proof.Machine.execLwu rd rs1 imm s
  | .ld rd rs1 imm => Sys2Proof.Machine.execLd rd rs1 imm s
  | .sd rs1 rs2 imm => Sys2Proof.Machine.execSd rs1 rs2 imm s
  | .addiw rd rs1 imm => Sys2Proof.Machine.execAddiw rd rs1 imm s
  | .slliw rd rs1 shamt => Sys2Proof.Machine.execSlliw rd rs1 shamt s
  | .srliw rd rs1 shamt => Sys2Proof.Machine.execSrliw rd rs1 shamt s
  | .sraiw rd rs1 shamt => Sys2Proof.Machine.execSraiw rd rs1 shamt s
  | .addw rd rs1 rs2 => Sys2Proof.Machine.execAddw rd rs1 rs2 s
  | .subw rd rs1 rs2 => Sys2Proof.Machine.execSubw rd rs1 rs2 s
  | .sllw rd rs1 rs2 => Sys2Proof.Machine.execSllw rd rs1 rs2 s
  | .srlw rd rs1 rs2 => Sys2Proof.Machine.execSrlw rd rs1 rs2 s
  | .sraw rd rs1 rs2 => Sys2Proof.Machine.execSraw rd rs1 rs2 s
  | .mulw rd rs1 rs2 => Sys2Proof.Machine.execMulw rd rs1 rs2 s
  | .divw rd rs1 rs2 => Sys2Proof.Machine.execDivw rd rs1 rs2 s
  | .divuw rd rs1 rs2 => Sys2Proof.Machine.execDivuw rd rs1 rs2 s
  | .remw rd rs1 rs2 => Sys2Proof.Machine.execRemw rd rs1 rs2 s
  | .remuw rd rs1 rs2 => Sys2Proof.Machine.execRemuw rd rs1 rs2 s
  | .lrD rd rs1 aq rl => Sys2Proof.Machine.execLrD rd rs1 aq rl s
  | .scD rd rs1 rs2 aq rl => Sys2Proof.Machine.execScD rd rs1 rs2 aq rl s
  | .amoswapD rd rs1 rs2 aq rl => Sys2Proof.Machine.execAmoswapD rd rs1 rs2 aq rl s
  | .amoaddD rd rs1 rs2 aq rl => Sys2Proof.Machine.execAmoaddD rd rs1 rs2 aq rl s
  | .amoxorD rd rs1 rs2 aq rl => Sys2Proof.Machine.execAmoxorD rd rs1 rs2 aq rl s
  | .amoandD rd rs1 rs2 aq rl => Sys2Proof.Machine.execAmoandD rd rs1 rs2 aq rl s
  | .amoorD rd rs1 rs2 aq rl => Sys2Proof.Machine.execAmoorD rd rs1 rs2 aq rl s
  | .amominD rd rs1 rs2 aq rl => Sys2Proof.Machine.execAmominD rd rs1 rs2 aq rl s
  | .amomaxD rd rs1 rs2 aq rl => Sys2Proof.Machine.execAmomaxD rd rs1 rs2 aq rl s
  | .amominuD rd rs1 rs2 aq rl => Sys2Proof.Machine.execAmominuD rd rs1 rs2 aq rl s
  | .amomaxuD rd rs1 rs2 aq rl => Sys2Proof.Machine.execAmomaxuD rd rs1 rs2 aq rl s
  | .fcvtLS rd rs1 rm => Sys2Proof.Machine.execFcvtLS rd rs1 rm s
  | .fcvtLUS rd rs1 rm => Sys2Proof.Machine.execFcvtLUS rd rs1 rm s
  | .fcvtSL rd rs1 rm => Sys2Proof.Machine.execFcvtSL rd rs1 rm s
  | .fcvtSLU rd rs1 rm => Sys2Proof.Machine.execFcvtSLU rd rs1 rm s
  | .fcvtLD rd rs1 rm => Sys2Proof.Machine.execFcvtLD rd rs1 rm s
  | .fcvtLUD rd rs1 rm => Sys2Proof.Machine.execFcvtLUD rd rs1 rm s
  | .fmvXD rd rs1 => Sys2Proof.Machine.execFmvXD rd rs1 s
  | .fcvtDL rd rs1 rm => Sys2Proof.Machine.execFcvtDL rd rs1 rm s
  | .fcvtDLU rd rs1 rm => Sys2Proof.Machine.execFcvtDLU rd rs1 rm s
  | .fmvDX rd rs1 => Sys2Proof.Machine.execFmvDX rd rs1 s
  | .cLd rd rs1 imm => Sys2Proof.Machine.execCLd rd rs1 imm s
  | .cSd rs1 rs2 imm => Sys2Proof.Machine.execCSd rs1 rs2 imm s
  | .cAddiw rd imm => Sys2Proof.Machine.execCAddiw rd imm s
  | .cSrli64 rd shamt => Sys2Proof.Machine.execCSrli64 rd shamt s
  | .cSrai64 rd shamt => Sys2Proof.Machine.execCSrai64 rd shamt s
  | .cSubw rd rs2 => Sys2Proof.Machine.execCSubw rd rs2 s
  | .cAddw rd rs2 => Sys2Proof.Machine.execCAddw rd rs2 s
  | .cSlli64 rd shamt => Sys2Proof.Machine.execCSlli64 rd shamt s
  | .cLdsp rd imm => Sys2Proof.Machine.execCLdsp rd imm s
  | .cSdsp rs2 imm => Sys2Proof.Machine.execCSdsp rs2 imm s

end Sys2Proof.Machine
end

