-- ==== Sys2Proof/Machine/Step.lean ====
section
/-! DEFINITION. One step of the machine: one rising edge of `clk`. -/

namespace Sys2Proof.Machine

/-- One rising edge of `clk` (R15, R92, R96). A word on `in_word` that a reference catalog's entry takes is an instruction, and the
edge is that instruction's meaning; any other word is still decoded, and the edge is the same operation on the word itself
(R91, R166). After the edge the outside world moves on. -/
def step (s : State) : Host.Outcome State Fault Refusal :=
  match decodeWord s.xlen s.ports.inWord with
  | .ok i => driveNext (exec i s)
  | .error _ => driveNext (clockEdge s.ports.inWord s)

/-- The instruction whose table bits are `w` stands where the next step takes its word: on `in_word`, valid, at an enabled edge. -/
def State.withFetchWord (s : State) (nbits w : Nat) : State := presentWord (BitVec.ofNat 32 (w % 2 ^ nbits)) s

end Sys2Proof.Machine
end

