-- ==== Sys2Proof/Machine/Compiler.lean ====
section
/-! DEFINITION. The bit-pattern compiler and the composition of a catalog, which run once at elaboration (40_catalog_compiler.md):
the layout grammar (R68), token widths (R69, R70), compilation with its malformation checks (R71, R72), composition (R75, R76,
R78), the build diagnostics (R79, R80), and the packing of a ROM word (R59). -/

namespace Sys2Proof.Machine

/-! ## The layout grammar (R68) -/

/-- A blank: an ASCII space or tab (R68). -/
def isBlank (c : Char) : Bool := c == ' ' || c == '\t'

def isBit (c : Char) : Bool := c == '0' || c == '1'
def isDigit (c : Char) : Bool := 48 ≤ c.toNat && c.toNat ≤ 57
def isLower (c : Char) : Bool := 97 ≤ c.toNat && c.toNat ≤ 122
def isUpper (c : Char) : Bool := 65 ≤ c.toNat && c.toNat ≤ 90

/-- Cuts a list at every character that `sep` holds of; `cur` is the piece being read, last character first. -/
def splitAux (sep : Char → Bool) : List Char → List Char → List (List Char)
  | cur, [] => [cur.reverse]
  | cur, c :: cs => if sep c then cur.reverse :: splitAux sep [] cs else splitAux sep (c :: cur) cs

/-- The characters of a layout string, one for each byte. The grammar is ASCII (R68): a byte of any other character is in no token's
class, as the character itself would be. -/
def layoutChars (s : String) : List Char := s.toByteArray.data.toList.map (fun b => Char.ofNat b.toNat)

/-- The blank-separated words of a layout string; runs of blanks count as one, and blanks at either end are ignored (R68). -/
def splitLayout (s : String) : List (List Char) := (splitAux isBlank [] (layoutChars s)).filter (fun t => !t.isEmpty)

/-- A token of a layout string (R68): a literal, most significant bit first, or a field with its name, its prime mark and its
ranges. -/
inductive Token where
  | literal (bits : List Bool)
  | field (name : List Char) (primed : Bool) (ranges : Option (List (Nat × Nat)))
deriving DecidableEq, Repr

/-- `number = digit { digit }` (R68). -/
def parseNumber (cs : List Char) : Option Nat :=
  if !cs.isEmpty && cs.all isDigit then some (cs.foldl (fun n c => 10 * n + (c.toNat - 48)) 0) else none

/-- `range = number [ ":" number ]`; a single number `n` counts as `n:n` (R68, R69). -/
def parseRange (cs : List Char) : Option (Nat × Nat) :=
  match splitAux (· == ':') [] cs with
  | [n] => (parseNumber n).map (fun k => (k, k))
  | [hi, lo] => (parseNumber hi).bind (fun h => (parseNumber lo).map (fun l => (h, l)))
  | _ => none

/-- All of a list of optional values, or none. -/
def allSome {α : Type} : List (Option α) → Option (List α)
  | [] => some []
  | none :: _ => none
  | some a :: rest => (allSome rest).map (a :: ·)

/-- `[ "[" ranges "]" ]` at the end of a field (R68): nothing, or a bracketed list of ranges. -/
def parseSuffix (cs : List Char) : Option (Option (List (Nat × Nat))) :=
  match cs with
  | [] => some none
  | '[' :: rest =>
    if rest.getLast? == some ']' then
      (allSome ((splitAux (· == '|') [] rest.dropLast).map parseRange)).map some
    else none
  | _ => none

/-- A token, or none when the word is neither a literal nor a field (R68). -/
def parseToken (cs : List Char) : Option Token :=
  if !cs.isEmpty && cs.all isBit then some (.literal (cs.map (· == '1')))
  else
    match cs with
    | c :: _ =>
      if isLower c then
        let name := cs.takeWhile (fun c => isLower c || isDigit c)
        match cs.dropWhile (fun c => isLower c || isDigit c) with
        | '\'' :: rest => (parseSuffix rest).map (.field name true)
        | rest => (parseSuffix rest).map (.field name false)
      else none
    | [] => none

/-- `mnemonic = upper { upper | digit | "." }` (R68). -/
def isMnemonic (cs : List Char) : Bool :=
  match cs with
  | c :: rest => isUpper c && rest.all (fun c => isUpper c || isDigit c || c == '.')
  | [] => false

/-! ## Widths (R69, R70) -/

/-- The width of a field token written without a range (R70). -/
def bareWidth (name : List Char) (primed : Bool) : Option Nat :=
  if primed then
    if name = ['r', 'd'] ∨ name = ['r', 's', '1'] ∨ name = ['r', 's', '2'] then some 3 else none
  else if name = ['r', 'd'] ∨ name = ['r', 's', '1'] ∨ name = ['r', 's', '2'] ∨ name = ['r', 's', '3'] then some 5
  else if name = ['c', 's', 'r'] then some 12
  else if name = ['r', 'm'] then some 3
  else if name = ['a', 'q'] ∨ name = ['r', 'l'] then some 1
  else none

/-- The width of a token, or the reason it has none: M3 for a bare name without a fixed width, M4 for a range that
ascends (R69, R71). -/
def tokenWidth : Token → Except Reason Nat
  | .literal bits => .ok bits.length
  | .field name primed none =>
    match bareWidth name primed with
    | some w => .ok w
    | none => .error .m3
  | .field _ _ (some rs) =>
    if rs.any (fun r => decide (r.1 < r.2)) then .error .m4 else .ok (rs.map (fun r => r.1 - r.2 + 1)).sum

/-! ## Compilation (R71) -/

/-- The tokens with their widths, left to right; the first token that fails ends compilation (R71: M2, M3, M4). -/
def checkTokens : List (List Char) → Except Reason (List (Token × Nat))
  | [] => .ok []
  | cs :: rest =>
    match parseToken cs with
    | none => .error .m2
    | some t =>
      match tokenWidth t with
      | .error r => .error r
      | .ok w =>
        match checkTokens rest with
        | .error r => .error r
        | .ok ts => .ok ((t, w) :: ts)

/-- The pair (mask, value) with a literal's bits written below the cursor, most significant bit first (R71). -/
def placeLiteral (cursor : Nat) : List Bool → Word × Word → Word × Word
  | [], mv => mv
  | b :: bs, (mask, value) =>
    let one := 1#32 <<< (cursor - 1)
    placeLiteral (cursor - 1) bs (mask ||| one, if b then value ||| one else value)

/-- The loop of R71 over the tokens: literals write their bits, every token moves the cursor down by its width. -/
def placeTokens (cursor : Nat) : List (Token × Nat) → Word × Word → Word × Word
  | [], mv => mv
  | (.literal bits, w) :: ts, mv => placeTokens (cursor - w) ts (placeLiteral cursor bits mv)
  | (.field .., w) :: ts, mv => placeTokens (cursor - w) ts mv

/-- Compiles one definition to its entry and its mnemonic; the checks run in the order of R71 and the first failure is the
result. -/
def compile (d : Definition) : Except Reason (Entry × String) :=
  if ¬(d.width = 16 ∨ d.width = 32) then .error .m7
  else if !codeAllowed (d.width == 16) d.tag then .error .m8
  else
    let toks := splitLayout d.layout
    match toks.getLast? with
    | none => .error .m5
    | some last =>
      if toks.length < 2 || !isMnemonic last then .error .m5
      else
        match checkTokens toks.dropLast with
        | .error r => .error r
        | .ok ts =>
          if (ts.map Prod.snd).sum ≠ d.width then .error .m1
          else
            let (mask, value) := placeTokens d.width ts (0#32, 0#32)
            if value &&& ~~~mask ≠ 0#32 then .error .m6
            else .ok (⟨value, mask, d.width == 16, d.tag⟩, String.ofList last)

/-! ## Diagnostics (R79, R80) -/

/-- Some word satisfies both entries' mask/value tests (R79). -/
def overlaps (a b : Entry) : Bool := (a.value ^^^ b.value) &&& a.mask &&& b.mask == 0#32

/-- Every word that matches `b` also matches `a` (R79). -/
def shadows (a b : Entry) : Bool := overlaps a b && a.mask &&& ~~~b.mask == 0#32

/-- The literal bits contradict the width class, so that no word selects the entry (R80). -/
def deadEntry (e : Entry) : Bool :=
  if e.w16 then e.mask.extractLsb 1 0 == 0b11#2 && e.value.extractLsb 1 0 == 0b11#2
  else e.mask.extractLsb 1 0 &&& ~~~(e.value.extractLsb 1 0) != 0#2

/-- The diagnostics of entry `a` at index `i` against the entries that follow it, from index `j` on. -/
def pairDiagnostics (a : Entry) (i : Nat) : Nat → List Entry → List Diagnostic
  | _, [] => []
  | j, b :: bs =>
    (if a.w16 == b.w16 && overlaps a b then [if shadows a b then .fullshadow i j else .overlap i j] else []) ++
      pairDiagnostics a i (j + 1) bs

/-- OVERLAP and FULLSHADOW for every pair `i < j` of one width class (R79), from index `i` on. -/
def overlapDiagnostics : Nat → List Entry → List Diagnostic
  | _, [] => []
  | i, a :: rest => pairDiagnostics a i (i + 1) rest ++ overlapDiagnostics (i + 1) rest

/-- DEAD for every entry that can never be selected (R80), from index `i` on. -/
def deadDiagnostics : Nat → List Entry → List Diagnostic
  | _, [] => []
  | i, a :: rest => (if deadEntry a then [.dead i] else []) ++ deadDiagnostics (i + 1) rest

/-- Every diagnostic of a ROM (R79, R80); `build` emits them. The order within the list is the model's (log 10). -/
def diagnostics (rom : List Entry) : List Diagnostic := overlapDiagnostics 0 rom ++ deadDiagnostics 0 rom

/-! ## Composition (R75, R76, R78, R79, R80) -/

/-- Compiles a module's definitions from position `k` on; the first failure is reported with its position (R72, R76). -/
def compileFrom (m : CatalogModule) : Nat → List Definition → Except Malformed (List (Entry × String))
  | _, [] => .ok []
  | k, d :: ds =>
    match compile d with
    | .error r => .error ⟨m.name, k, d.layout, r⟩
    | .ok e =>
      match compileFrom m (k + 1) ds with
      | .error x => .error x
      | .ok es => .ok (e :: es)

/-- Compiles the modules in order (R75); nothing after the first failure is compiled (R76). -/
def compileModules : List CatalogModule → Except Malformed (List (Entry × String))
  | [] => .ok []
  | m :: ms =>
    match compileFrom m 0 m.defs with
    | .error x => .error x
    | .ok es =>
      match compileModules ms with
      | .error x => .error x
      | .ok rest => .ok (es ++ rest)

/-- The bit of an extension in `EXT_SET` (R22): a letter's place in the alphabet; 26, 27, 28 for Zicsr, Zifencei, Priv; no bit for
any other name. -/
def extensionBit (ext : String) : BitVec 32 :=
  match ext.toList with
  | [c] => if isUpper c then 1#32 <<< (c.toNat - 65) else 0#32
  | _ =>
    if ext = "Zicsr" then 1#32 <<< 26
    else if ext = "Zifencei" then 1#32 <<< 27
    else if ext = "Priv" then 1#32 <<< 28
    else 0#32

/-- `EXT_SET |= bit(module)` for each module added (R78). -/
def extensionSet (ms : List CatalogModule) : BitVec 32 := ms.foldl (fun s m => s ||| extensionBit m.ext) 0#32

/-- Composition (R75): every definition is compiled in order, then the 32-bit entries come first and the 16-bit entries after them,
each in insertion order. The mnemonics stand beside the entries (R59). The build emits the diagnostics of the ROM it made; they
fail nothing and change nothing in it (R79, R80). -/
def build (ms : List CatalogModule) : Except Malformed Catalog :=
  match compileModules ms with
  | .error x => .error x
  | .ok l =>
    let ordered := l.filter (fun e => !e.1.w16) ++ l.filter (fun e => e.1.w16)
    let rom := ordered.map Prod.fst
    .ok ⟨rom, ordered.map Prod.snd, extensionSet ms, diagnostics rom⟩

/-! ## ROM words and sizes (R26, R59) -/

/-- The 71-bit ROM word `{fmt, w16, mask, value}` (R59). -/
def packEntry (e : Entry) : BitVec 71 := e.fmt ++ BitVec.ofBool e.w16 ++ e.mask ++ e.value

/-- The entry a ROM word holds (R59). -/
def unpackEntry (r : BitVec 71) : Entry where
  value := r.extractLsb 31 0
  mask := r.extractLsb 63 32
  w16 := r.getLsbD 64
  fmt := r.extractLsb 70 65

/-- Bits of the stage-1 registers for a catalog of `n` entries (R26). -/
def stage1Bits (n : Nat) : Nat := 1 + 1 + 32 + 1 + idxWidth n + 6

/-- Bits of the stage-2 registers for a catalog of `n` entries (R26). -/
def stage2Bits (n : Nat) : Nat := stage1Bits n + 10 + 4 * 5 + 32 + 12 + 6 + 3 + 1 + 1

/-- Bits of the ROM for a catalog of `n` entries (R26). -/
def romBits (n : Nat) : Nat := 71 * n

end Sys2Proof.Machine
end

