-- ==== Sys2Proof/Machine/Catalog.lean ====
section
/-! DEFINITION. The reference catalog as its source text: the modules of 44_reference_catalog.md in the order of composition, every
definition with its layout string, format tag and XLEN filter (R138 to R154). Building it gives the ROM of Decode.lean. -/

namespace Sys2Proof.Machine

/-- A definition's XLEN filter (R138). -/
inductive XFilter where
  | both
  | only32
  | only64
deriving DecidableEq, Repr

/-- The filter admits the build's XLEN (R138). -/
def XFilter.admits : XFilter → XLen → Bool
  | .both, .rv32 => true
  | .both, .rv64 => true
  | .only32, .rv32 => true
  | .only64, .rv64 => true
  | _, _ => false

/-- A line of a module table: filter, tag, layout string (R139). The declared length is the module's (R67). -/
abbrev SourceLine := XFilter × Tag × String

/-- Module RV32I (R141). -/
def sourceRv32i : List SourceLine := [
  (.both, .u, "imm[31:12] rd 0110111 LUI"),
  (.both, .u, "imm[31:12] rd 0010111 AUIPC"),
  (.both, .j, "imm[20|10:1|11|19:12] rd 1101111 JAL"),
  (.both, .i, "imm[11:0] rs1 000 rd 1100111 JALR"),
  (.both, .b, "imm[12|10:5] rs2 rs1 000 imm[4:1|11] 1100011 BEQ"),
  (.both, .b, "imm[12|10:5] rs2 rs1 001 imm[4:1|11] 1100011 BNE"),
  (.both, .b, "imm[12|10:5] rs2 rs1 100 imm[4:1|11] 1100011 BLT"),
  (.both, .b, "imm[12|10:5] rs2 rs1 101 imm[4:1|11] 1100011 BGE"),
  (.both, .b, "imm[12|10:5] rs2 rs1 110 imm[4:1|11] 1100011 BLTU"),
  (.both, .b, "imm[12|10:5] rs2 rs1 111 imm[4:1|11] 1100011 BGEU"),
  (.both, .i, "imm[11:0] rs1 000 rd 0000011 LB"),
  (.both, .i, "imm[11:0] rs1 001 rd 0000011 LH"),
  (.both, .i, "imm[11:0] rs1 010 rd 0000011 LW"),
  (.both, .i, "imm[11:0] rs1 100 rd 0000011 LBU"),
  (.both, .i, "imm[11:0] rs1 101 rd 0000011 LHU"),
  (.both, .s, "imm[11:5] rs2 rs1 000 imm[4:0] 0100011 SB"),
  (.both, .s, "imm[11:5] rs2 rs1 001 imm[4:0] 0100011 SH"),
  (.both, .s, "imm[11:5] rs2 rs1 010 imm[4:0] 0100011 SW"),
  (.both, .i, "imm[11:0] rs1 000 rd 0010011 ADDI"),
  (.both, .i, "imm[11:0] rs1 010 rd 0010011 SLTI"),
  (.both, .i, "imm[11:0] rs1 011 rd 0010011 SLTIU"),
  (.both, .i, "imm[11:0] rs1 100 rd 0010011 XORI"),
  (.both, .i, "imm[11:0] rs1 110 rd 0010011 ORI"),
  (.both, .i, "imm[11:0] rs1 111 rd 0010011 ANDI"),
  (.only32, .iSh5, "0000000 shamt[4:0] rs1 001 rd 0010011 SLLI"),
  (.only32, .iSh5, "0000000 shamt[4:0] rs1 101 rd 0010011 SRLI"),
  (.only32, .iSh5, "0100000 shamt[4:0] rs1 101 rd 0010011 SRAI"),
  (.both, .r, "0000000 rs2 rs1 000 rd 0110011 ADD"),
  (.both, .r, "0100000 rs2 rs1 000 rd 0110011 SUB"),
  (.both, .r, "0000000 rs2 rs1 001 rd 0110011 SLL"),
  (.both, .r, "0000000 rs2 rs1 010 rd 0110011 SLT"),
  (.both, .r, "0000000 rs2 rs1 011 rd 0110011 SLTU"),
  (.both, .r, "0000000 rs2 rs1 100 rd 0110011 XOR"),
  (.both, .r, "0000000 rs2 rs1 101 rd 0110011 SRL"),
  (.both, .r, "0100000 rs2 rs1 101 rd 0110011 SRA"),
  (.both, .r, "0000000 rs2 rs1 110 rd 0110011 OR"),
  (.both, .r, "0000000 rs2 rs1 111 rd 0110011 AND"),
  (.both, .i, "fm[3:0] pred[3:0] succ[3:0] rs1 000 rd 0001111 FENCE"),
  (.both, .none, "000000000000 00000 000 00000 1110011 ECALL"),
  (.both, .none, "000000000001 00000 000 00000 1110011 EBREAK")]

/-- Module RV64I (R142). -/
def sourceRv64i : List SourceLine := [
  (.only64, .iSh6, "000000 shamt[5:0] rs1 001 rd 0010011 SLLI"),
  (.only64, .iSh6, "000000 shamt[5:0] rs1 101 rd 0010011 SRLI"),
  (.only64, .iSh6, "010000 shamt[5:0] rs1 101 rd 0010011 SRAI"),
  (.only64, .i, "imm[11:0] rs1 110 rd 0000011 LWU"),
  (.only64, .i, "imm[11:0] rs1 011 rd 0000011 LD"),
  (.only64, .s, "imm[11:5] rs2 rs1 011 imm[4:0] 0100011 SD"),
  (.only64, .i, "imm[11:0] rs1 000 rd 0011011 ADDIW"),
  (.only64, .iSh5, "0000000 shamt[4:0] rs1 001 rd 0011011 SLLIW"),
  (.only64, .iSh5, "0000000 shamt[4:0] rs1 101 rd 0011011 SRLIW"),
  (.only64, .iSh5, "0100000 shamt[4:0] rs1 101 rd 0011011 SRAIW"),
  (.only64, .r, "0000000 rs2 rs1 000 rd 0111011 ADDW"),
  (.only64, .r, "0100000 rs2 rs1 000 rd 0111011 SUBW"),
  (.only64, .r, "0000000 rs2 rs1 001 rd 0111011 SLLW"),
  (.only64, .r, "0000000 rs2 rs1 101 rd 0111011 SRLW"),
  (.only64, .r, "0100000 rs2 rs1 101 rd 0111011 SRAW")]

/-- Module Zifencei (R143). -/
def sourceZifencei : List SourceLine := [
  (.both, .none, "000000000000 00000 001 00000 0001111 FENCE.I")]

/-- Module Zicsr (R144). -/
def sourceZicsr : List SourceLine := [
  (.both, .iCsr, "csr rs1 001 rd 1110011 CSRRW"),
  (.both, .iCsr, "csr rs1 010 rd 1110011 CSRRS"),
  (.both, .iCsr, "csr rs1 011 rd 1110011 CSRRC"),
  (.both, .iCsri, "csr uimm[4:0] 101 rd 1110011 CSRRWI"),
  (.both, .iCsri, "csr uimm[4:0] 110 rd 1110011 CSRRSI"),
  (.both, .iCsri, "csr uimm[4:0] 111 rd 1110011 CSRRCI")]

/-- Module RV32M (R145). -/
def sourceRv32m : List SourceLine := [
  (.both, .r, "0000001 rs2 rs1 000 rd 0110011 MUL"),
  (.both, .r, "0000001 rs2 rs1 001 rd 0110011 MULH"),
  (.both, .r, "0000001 rs2 rs1 010 rd 0110011 MULHSU"),
  (.both, .r, "0000001 rs2 rs1 011 rd 0110011 MULHU"),
  (.both, .r, "0000001 rs2 rs1 100 rd 0110011 DIV"),
  (.both, .r, "0000001 rs2 rs1 101 rd 0110011 DIVU"),
  (.both, .r, "0000001 rs2 rs1 110 rd 0110011 REM"),
  (.both, .r, "0000001 rs2 rs1 111 rd 0110011 REMU")]

/-- Module RV64M (R146). -/
def sourceRv64m : List SourceLine := [
  (.only64, .r, "0000001 rs2 rs1 000 rd 0111011 MULW"),
  (.only64, .r, "0000001 rs2 rs1 100 rd 0111011 DIVW"),
  (.only64, .r, "0000001 rs2 rs1 101 rd 0111011 DIVUW"),
  (.only64, .r, "0000001 rs2 rs1 110 rd 0111011 REMW"),
  (.only64, .r, "0000001 rs2 rs1 111 rd 0111011 REMUW")]

/-- Module RV32A (R147). -/
def sourceRv32a : List SourceLine := [
  (.both, .rLr, "00010 aq rl 00000 rs1 010 rd 0101111 LR.W"),
  (.both, .rAmo, "00011 aq rl rs2 rs1 010 rd 0101111 SC.W"),
  (.both, .rAmo, "00001 aq rl rs2 rs1 010 rd 0101111 AMOSWAP.W"),
  (.both, .rAmo, "00000 aq rl rs2 rs1 010 rd 0101111 AMOADD.W"),
  (.both, .rAmo, "00100 aq rl rs2 rs1 010 rd 0101111 AMOXOR.W"),
  (.both, .rAmo, "01100 aq rl rs2 rs1 010 rd 0101111 AMOAND.W"),
  (.both, .rAmo, "01000 aq rl rs2 rs1 010 rd 0101111 AMOOR.W"),
  (.both, .rAmo, "10000 aq rl rs2 rs1 010 rd 0101111 AMOMIN.W"),
  (.both, .rAmo, "10100 aq rl rs2 rs1 010 rd 0101111 AMOMAX.W"),
  (.both, .rAmo, "11000 aq rl rs2 rs1 010 rd 0101111 AMOMINU.W"),
  (.both, .rAmo, "11100 aq rl rs2 rs1 010 rd 0101111 AMOMAXU.W")]

/-- Module RV64A (R148). -/
def sourceRv64a : List SourceLine := [
  (.only64, .rLr, "00010 aq rl 00000 rs1 011 rd 0101111 LR.D"),
  (.only64, .rAmo, "00011 aq rl rs2 rs1 011 rd 0101111 SC.D"),
  (.only64, .rAmo, "00001 aq rl rs2 rs1 011 rd 0101111 AMOSWAP.D"),
  (.only64, .rAmo, "00000 aq rl rs2 rs1 011 rd 0101111 AMOADD.D"),
  (.only64, .rAmo, "00100 aq rl rs2 rs1 011 rd 0101111 AMOXOR.D"),
  (.only64, .rAmo, "01100 aq rl rs2 rs1 011 rd 0101111 AMOAND.D"),
  (.only64, .rAmo, "01000 aq rl rs2 rs1 011 rd 0101111 AMOOR.D"),
  (.only64, .rAmo, "10000 aq rl rs2 rs1 011 rd 0101111 AMOMIN.D"),
  (.only64, .rAmo, "10100 aq rl rs2 rs1 011 rd 0101111 AMOMAX.D"),
  (.only64, .rAmo, "11000 aq rl rs2 rs1 011 rd 0101111 AMOMINU.D"),
  (.only64, .rAmo, "11100 aq rl rs2 rs1 011 rd 0101111 AMOMAXU.D")]

/-- Module RV32F (R149). -/
def sourceRv32f : List SourceLine := [
  (.both, .i, "imm[11:0] rs1 010 rd 0000111 FLW"),
  (.both, .s, "imm[11:5] rs2 rs1 010 imm[4:0] 0100111 FSW"),
  (.both, .r4Rm, "rs3 00 rs2 rs1 rm rd 1000011 FMADD.S"),
  (.both, .r4Rm, "rs3 00 rs2 rs1 rm rd 1000111 FMSUB.S"),
  (.both, .r4Rm, "rs3 00 rs2 rs1 rm rd 1001011 FNMSUB.S"),
  (.both, .r4Rm, "rs3 00 rs2 rs1 rm rd 1001111 FNMADD.S"),
  (.both, .rRm, "0000000 rs2 rs1 rm rd 1010011 FADD.S"),
  (.both, .rRm, "0000100 rs2 rs1 rm rd 1010011 FSUB.S"),
  (.both, .rRm, "0001000 rs2 rs1 rm rd 1010011 FMUL.S"),
  (.both, .rRm, "0001100 rs2 rs1 rm rd 1010011 FDIV.S"),
  (.both, .r2Rm, "0101100 00000 rs1 rm rd 1010011 FSQRT.S"),
  (.both, .r, "0010000 rs2 rs1 000 rd 1010011 FSGNJ.S"),
  (.both, .r, "0010000 rs2 rs1 001 rd 1010011 FSGNJN.S"),
  (.both, .r, "0010000 rs2 rs1 010 rd 1010011 FSGNJX.S"),
  (.both, .r, "0010100 rs2 rs1 000 rd 1010011 FMIN.S"),
  (.both, .r, "0010100 rs2 rs1 001 rd 1010011 FMAX.S"),
  (.both, .r, "1010000 rs2 rs1 010 rd 1010011 FEQ.S"),
  (.both, .r, "1010000 rs2 rs1 001 rd 1010011 FLT.S"),
  (.both, .r, "1010000 rs2 rs1 000 rd 1010011 FLE.S"),
  (.both, .r2, "1110000 00000 rs1 001 rd 1010011 FCLASS.S"),
  (.both, .r2Rm, "1100000 00000 rs1 rm rd 1010011 FCVT.W.S"),
  (.both, .r2Rm, "1100000 00001 rs1 rm rd 1010011 FCVT.WU.S"),
  (.both, .r2Rm, "1101000 00000 rs1 rm rd 1010011 FCVT.S.W"),
  (.both, .r2Rm, "1101000 00001 rs1 rm rd 1010011 FCVT.S.WU"),
  (.both, .r2, "1110000 00000 rs1 000 rd 1010011 FMV.X.W"),
  (.both, .r2, "1111000 00000 rs1 000 rd 1010011 FMV.W.X")]

/-- Module RV64F (R150). -/
def sourceRv64f : List SourceLine := [
  (.only64, .r2Rm, "1100000 00010 rs1 rm rd 1010011 FCVT.L.S"),
  (.only64, .r2Rm, "1100000 00011 rs1 rm rd 1010011 FCVT.LU.S"),
  (.only64, .r2Rm, "1101000 00010 rs1 rm rd 1010011 FCVT.S.L"),
  (.only64, .r2Rm, "1101000 00011 rs1 rm rd 1010011 FCVT.S.LU")]

/-- Module RV32D (R151). -/
def sourceRv32d : List SourceLine := [
  (.both, .i, "imm[11:0] rs1 011 rd 0000111 FLD"),
  (.both, .s, "imm[11:5] rs2 rs1 011 imm[4:0] 0100111 FSD"),
  (.both, .r4Rm, "rs3 01 rs2 rs1 rm rd 1000011 FMADD.D"),
  (.both, .r4Rm, "rs3 01 rs2 rs1 rm rd 1000111 FMSUB.D"),
  (.both, .r4Rm, "rs3 01 rs2 rs1 rm rd 1001011 FNMSUB.D"),
  (.both, .r4Rm, "rs3 01 rs2 rs1 rm rd 1001111 FNMADD.D"),
  (.both, .rRm, "0000001 rs2 rs1 rm rd 1010011 FADD.D"),
  (.both, .rRm, "0000101 rs2 rs1 rm rd 1010011 FSUB.D"),
  (.both, .rRm, "0001001 rs2 rs1 rm rd 1010011 FMUL.D"),
  (.both, .rRm, "0001101 rs2 rs1 rm rd 1010011 FDIV.D"),
  (.both, .r2Rm, "0101101 00000 rs1 rm rd 1010011 FSQRT.D"),
  (.both, .r, "0010001 rs2 rs1 000 rd 1010011 FSGNJ.D"),
  (.both, .r, "0010001 rs2 rs1 001 rd 1010011 FSGNJN.D"),
  (.both, .r, "0010001 rs2 rs1 010 rd 1010011 FSGNJX.D"),
  (.both, .r, "0010101 rs2 rs1 000 rd 1010011 FMIN.D"),
  (.both, .r, "0010101 rs2 rs1 001 rd 1010011 FMAX.D"),
  (.both, .r2Rm, "0100000 00001 rs1 rm rd 1010011 FCVT.S.D"),
  (.both, .r2Rm, "0100001 00000 rs1 rm rd 1010011 FCVT.D.S"),
  (.both, .r, "1010001 rs2 rs1 010 rd 1010011 FEQ.D"),
  (.both, .r, "1010001 rs2 rs1 001 rd 1010011 FLT.D"),
  (.both, .r, "1010001 rs2 rs1 000 rd 1010011 FLE.D"),
  (.both, .r2, "1110001 00000 rs1 001 rd 1010011 FCLASS.D"),
  (.both, .r2Rm, "1100001 00000 rs1 rm rd 1010011 FCVT.W.D"),
  (.both, .r2Rm, "1100001 00001 rs1 rm rd 1010011 FCVT.WU.D"),
  (.both, .r2Rm, "1101001 00000 rs1 rm rd 1010011 FCVT.D.W"),
  (.both, .r2Rm, "1101001 00001 rs1 rm rd 1010011 FCVT.D.WU")]

/-- Module RV64D (R152). -/
def sourceRv64d : List SourceLine := [
  (.only64, .r2Rm, "1100001 00010 rs1 rm rd 1010011 FCVT.L.D"),
  (.only64, .r2Rm, "1100001 00011 rs1 rm rd 1010011 FCVT.LU.D"),
  (.only64, .r2, "1110001 00000 rs1 000 rd 1010011 FMV.X.D"),
  (.only64, .r2Rm, "1101001 00010 rs1 rm rd 1010011 FCVT.D.L"),
  (.only64, .r2Rm, "1101001 00011 rs1 rm rd 1010011 FCVT.D.LU"),
  (.only64, .r2, "1111001 00000 rs1 000 rd 1010011 FMV.D.X")]

/-- Module Priv (R153). -/
def sourcePriv : List SourceLine := [
  (.both, .none, "0001000 00010 00000 000 00000 1110011 SRET"),
  (.both, .none, "0011000 00010 00000 000 00000 1110011 MRET"),
  (.both, .none, "0001000 00101 00000 000 00000 1110011 WFI"),
  (.both, .rS, "0001001 rs2 rs1 000 00000 1110011 SFENCE.VMA")]

/-- Module RVC (R154). -/
def sourceRvc : List SourceLine := [
  (.both, .ciw, "000 nzuimm[5:4|9:6|2|3] rd' 00 C.ADDI4SPN"),
  (.both, .clD, "001 uimm[5:3] rs1' uimm[7:6] rd' 00 C.FLD"),
  (.both, .clW, "010 uimm[5:3] rs1' uimm[2|6] rd' 00 C.LW"),
  (.only32, .clW, "011 uimm[5:3] rs1' uimm[2|6] rd' 00 C.FLW"),
  (.only64, .clD, "011 uimm[5:3] rs1' uimm[7:6] rd' 00 C.LD"),
  (.both, .csD, "101 uimm[5:3] rs1' uimm[7:6] rs2' 00 C.FSD"),
  (.both, .csW, "110 uimm[5:3] rs1' uimm[2|6] rs2' 00 C.SW"),
  (.only32, .csW, "111 uimm[5:3] rs1' uimm[2|6] rs2' 00 C.FSW"),
  (.only64, .csD, "111 uimm[5:3] rs1' uimm[7:6] rs2' 00 C.SD"),
  (.both, .none, "000 0 00000 00000 01 C.NOP"),
  (.both, .ci, "000 imm[5] rd imm[4:0] 01 C.ADDI"),
  (.only32, .cj, "001 offset[11|4|9:8|10|6|7|3:1|5] 01 C.JAL"),
  (.only64, .ci, "001 imm[5] rd imm[4:0] 01 C.ADDIW"),
  (.both, .ci, "010 imm[5] rd imm[4:0] 01 C.LI"),
  (.both, .ciAddi16sp, "011 nzimm[9] 00010 nzimm[4|6|8:7|5] 01 C.ADDI16SP"),
  (.both, .ciLui, "011 nzimm[17] rd nzimm[16:12] 01 C.LUI"),
  (.only32, .cbSh, "100 0 00 rd' shamt[4:0] 01 C.SRLI"),
  (.only64, .cbSh, "100 shamt[5] 00 rd' shamt[4:0] 01 C.SRLI"),
  (.only32, .cbSh, "100 0 01 rd' shamt[4:0] 01 C.SRAI"),
  (.only64, .cbSh, "100 shamt[5] 01 rd' shamt[4:0] 01 C.SRAI"),
  (.both, .cbAndi, "100 imm[5] 10 rd' imm[4:0] 01 C.ANDI"),
  (.both, .ca, "100 0 11 rd' 00 rs2' 01 C.SUB"),
  (.both, .ca, "100 0 11 rd' 01 rs2' 01 C.XOR"),
  (.both, .ca, "100 0 11 rd' 10 rs2' 01 C.OR"),
  (.both, .ca, "100 0 11 rd' 11 rs2' 01 C.AND"),
  (.only64, .ca, "100 1 11 rd' 00 rs2' 01 C.SUBW"),
  (.only64, .ca, "100 1 11 rd' 01 rs2' 01 C.ADDW"),
  (.both, .cj, "101 offset[11|4|9:8|10|6|7|3:1|5] 01 C.J"),
  (.both, .cbBr, "110 offset[8|4:3] rs1' offset[7:6|2:1|5] 01 C.BEQZ"),
  (.both, .cbBr, "111 offset[8|4:3] rs1' offset[7:6|2:1|5] 01 C.BNEZ"),
  (.only32, .ciSh, "000 0 rd shamt[4:0] 10 C.SLLI"),
  (.only64, .ciSh, "000 shamt[5] rd shamt[4:0] 10 C.SLLI"),
  (.both, .ciLdsp, "001 uimm[5] rd uimm[4:3|8:6] 10 C.FLDSP"),
  (.both, .ciLwsp, "010 uimm[5] rd uimm[4:2|7:6] 10 C.LWSP"),
  (.only32, .ciLwsp, "011 uimm[5] rd uimm[4:2|7:6] 10 C.FLWSP"),
  (.only64, .ciLdsp, "011 uimm[5] rd uimm[4:3|8:6] 10 C.LDSP"),
  (.both, .none, "100 1 00000 00000 10 C.EBREAK"),
  (.both, .crJr, "100 0 rs1 00000 10 C.JR"),
  (.both, .cr, "100 0 rd rs2 10 C.MV"),
  (.both, .crJr, "100 1 rs1 00000 10 C.JALR"),
  (.both, .cr, "100 1 rd rs2 10 C.ADD"),
  (.both, .cssSdsp, "101 uimm[5:3|8:6] rs2 10 C.FSDSP"),
  (.both, .cssSwsp, "110 uimm[5:2|7:6] rs2 10 C.SWSP"),
  (.only32, .cssSwsp, "111 uimm[5:2|7:6] rs2 10 C.FSWSP"),
  (.only64, .cssSdsp, "111 uimm[5:3|8:6] rs2 10 C.SDSP")]

/-- The module of a source table: its width, and the lines whose filter admits the XLEN (R67, R138). -/
def sourceModule (name ext : String) (width : Nat) (x : XLen) (ls : List SourceLine) : CatalogModule :=
  ⟨name, ext, width, (ls.filter (fun l => l.1.admits x)).map (fun l => (l.2.2, tagCode l.2.1))⟩

/-- The reference composition (R138). -/
def referenceModules (x : XLen) : List CatalogModule := [
  sourceModule "RV32I" "I" 32 x sourceRv32i,
  sourceModule "RV64I" "I" 32 x sourceRv64i,
  sourceModule "Zifencei" "Zifencei" 32 x sourceZifencei,
  sourceModule "Zicsr" "Zicsr" 32 x sourceZicsr,
  sourceModule "RV32M" "M" 32 x sourceRv32m,
  sourceModule "RV64M" "M" 32 x sourceRv64m,
  sourceModule "RV32A" "A" 32 x sourceRv32a,
  sourceModule "RV64A" "A" 32 x sourceRv64a,
  sourceModule "RV32F" "F" 32 x sourceRv32f,
  sourceModule "RV64F" "F" 32 x sourceRv64f,
  sourceModule "RV32D" "D" 32 x sourceRv32d,
  sourceModule "RV64D" "D" 32 x sourceRv64d,
  sourceModule "Priv" "Priv" 32 x sourcePriv,
  sourceModule "RVC" "C" 16 x sourceRvc]

/-- The mnemonic of a definition, the last word of its layout string (R68, R139). -/
def layoutMnemonic (layout : String) : String := String.ofList ((splitLayout layout).getLast?.getD [])

/-- The mnemonics of the reference catalog, in ROM order: the table kept beside the ROM (R59, R156). -/
def referenceNames (x : XLen) : List String := (referenceModules x).flatMap (fun m => m.defs.map (fun d => layoutMnemonic d.layout))

end Sys2Proof.Machine
end

