-- ==== Sys2Proof/Machine/Consumer.lean ====
section
/-! DEFINITION. The consumer side (45_consumer_contract.md): what a consumer does with the block's outputs. It is outside the block
(R5) and no step calls it; it is here so that the source's scenarios can be stated end to end. -/

namespace Sys2Proof.Machine

/-- The open parameters of the consumer: the CSR name table (R164, D35), the placeholder text (R157, D35), and the mnemonics that
have no formatter, which the spec does not name (R157; log 9). -/
structure Lookup where
  csrNames : List (BitVec 12 × String)
  placeholder : String
  unformatted : List String
deriving DecidableEq, Repr

/-- A Disassembly record (R156). -/
structure Disassembly where
  address : Nat
  addressBitWidth : Nat
  rawInstructionWord : Word
  instructionByteLength : Nat
  assemblyText : String
deriving DecidableEq, Repr

/-! ## The instruction stream (R40, R155) -/

/-- `len = out_len4 ? 4 : 2` (R155). -/
def byteLength (o : Stage2) : Nat := if o.len4 then 4 else 2

/-- The word a consumer presents for the bytes from its address on, little-endian (R40). A tail of two bytes is supplied with zeros, as
R40 allows; that a tail of one or three bytes is filled up with zeros too, and so decoded like any word, is the model's choice, where
the spec is silent (log 11). -/
def streamWord (bytes : List Byte) : Word :=
  wordOfBytes (bytes.getD 0 0#8) (bytes.getD 1 0#8) (bytes.getD 2 0#8) (bytes.getD 3 0#8)

/-! ## Numbers -/

/-- The digit characters of hexadecimal and decimal numerals, lowercase. -/
def digitChar (d : Nat) : Char :=
  ['0', '1', '2', '3', '4', '5', '6', '7', '8', '9', 'a', 'b', 'c', 'd', 'e', 'f'].getD d '0'

/-- The numeral of `n` in a base, written before `acc`; `fuel` bounds the number of digits. -/
def digits (base : Nat) : Nat → Nat → List Char → List Char
  | 0, _, acc => acc
  | fuel + 1, n, acc =>
    let acc := digitChar (n % base) :: acc
    if n / base = 0 then acc else digits base fuel (n / base) acc

/-- Lowercase hexadecimal with no `0x` before it and no leading zeros (R161). -/
def hexText (n : Nat) : String := String.ofList (digits 16 40 n [])

/-- Unsigned decimal. -/
def natText (n : Nat) : String := String.ofList (digits 10 40 n [])

/-- Signed decimal (R160). -/
def intText (i : Int) : String := if i < 0 then "-" ++ natText i.natAbs else natText i.natAbs

/-! ## Names (R163, R164) -/

/-- The integer registers' ABI names (R163). -/
def integerNames : List String :=
  ["zero", "ra", "sp", "gp", "tp", "t0", "t1", "t2", "s0", "s1", "a0", "a1", "a2", "a3", "a4", "a5",
   "a6", "a7", "s2", "s3", "s4", "s5", "s6", "s7", "s8", "s9", "s10", "s11", "t3", "t4", "t5", "t6"]

/-- The floating-point registers' ABI names (R163). -/
def floatNames : List String :=
  ["ft0", "ft1", "ft2", "ft3", "ft4", "ft5", "ft6", "ft7", "fs0", "fs1", "fa0", "fa1", "fa2", "fa3", "fa4", "fa5",
   "fa6", "fa7", "fs2", "fs3", "fs4", "fs5", "fs6", "fs7", "fs8", "fs9", "fs10", "fs11", "ft8", "ft9", "ft10", "ft11"]

/-- `registerName(index, class)` (R163). -/
def registerName (r : Reg) (float : Bool) : String := (if float then floatNames else integerNames).getD r.toNat ""

/-- `csrName(address)`: the three floating-point CSRs by their own names, whatever the table says (R159; log 9); else the table's
name, else `0x%03x` (R164). -/
def csrName (lk : Lookup) (a : BitVec 12) : String :=
  if a = 0x001#12 then "fflags"
  else if a = 0x002#12 then "frm"
  else if a = 0x003#12 then "fcsr"
  else
    match lk.csrNames.find? (fun p => p.1 == a) with
    | some p => p.2
    | none => "0x" ++ String.ofList [digitChar (a.toNat / 256), digitChar (a.toNat / 16 % 16), digitChar (a.toNat % 16)]

/-- The name of a rounding mode; the reserved codes 5 and 6 as numbers (R160). -/
def roundingName (rm : BitVec 3) : String := ["rne", "rtz", "rdn", "rup", "rmm", "5", "6", "dyn"].getD rm.toNat ""

/-- The register class of each operand follows from the mnemonic (R163); the mapping is the RISC-V family's (log 9). -/
def rdIsFloat (m : String) : Bool :=
  m ∈ ["FLW", "FLD", "FMADD.S", "FMSUB.S", "FNMSUB.S", "FNMADD.S", "FMADD.D", "FMSUB.D", "FNMSUB.D", "FNMADD.D",
    "FADD.S", "FSUB.S", "FMUL.S", "FDIV.S", "FSQRT.S", "FADD.D", "FSUB.D", "FMUL.D", "FDIV.D", "FSQRT.D",
    "FSGNJ.S", "FSGNJN.S", "FSGNJX.S", "FMIN.S", "FMAX.S", "FSGNJ.D", "FSGNJN.D", "FSGNJX.D", "FMIN.D", "FMAX.D",
    "FCVT.S.D", "FCVT.D.S", "FCVT.S.W", "FCVT.S.WU", "FCVT.S.L", "FCVT.S.LU", "FCVT.D.W", "FCVT.D.WU", "FCVT.D.L",
    "FCVT.D.LU", "FMV.W.X", "FMV.D.X", "C.FLW", "C.FLD", "C.FLWSP", "C.FLDSP"]

def rs1IsFloat (m : String) : Bool :=
  m ∈ ["FMADD.S", "FMSUB.S", "FNMSUB.S", "FNMADD.S", "FMADD.D", "FMSUB.D", "FNMSUB.D", "FNMADD.D",
    "FADD.S", "FSUB.S", "FMUL.S", "FDIV.S", "FSQRT.S", "FADD.D", "FSUB.D", "FMUL.D", "FDIV.D", "FSQRT.D",
    "FSGNJ.S", "FSGNJN.S", "FSGNJX.S", "FMIN.S", "FMAX.S", "FSGNJ.D", "FSGNJN.D", "FSGNJX.D", "FMIN.D", "FMAX.D",
    "FEQ.S", "FLT.S", "FLE.S", "FEQ.D", "FLT.D", "FLE.D", "FCLASS.S", "FCLASS.D",
    "FCVT.S.D", "FCVT.D.S", "FCVT.W.S", "FCVT.WU.S", "FCVT.L.S", "FCVT.LU.S", "FCVT.W.D", "FCVT.WU.D", "FCVT.L.D",
    "FCVT.LU.D", "FMV.X.W", "FMV.X.D"]

def rs2IsFloat (m : String) : Bool :=
  m ∈ ["FSW", "FSD", "FMADD.S", "FMSUB.S", "FNMSUB.S", "FNMADD.S", "FMADD.D", "FMSUB.D", "FNMSUB.D", "FNMADD.D",
    "FADD.S", "FSUB.S", "FMUL.S", "FDIV.S", "FADD.D", "FSUB.D", "FMUL.D", "FDIV.D",
    "FSGNJ.S", "FSGNJN.S", "FSGNJX.S", "FMIN.S", "FMAX.S", "FSGNJ.D", "FSGNJN.D", "FSGNJX.D", "FMIN.D", "FMAX.D",
    "FEQ.S", "FLT.S", "FLE.S", "FEQ.D", "FLT.D", "FLE.D", "C.FSW", "C.FSD", "C.FSWSP", "C.FSDSP"]

def rdText (m : String) (f : Fields) : String := registerName f.rd (rdIsFloat m)
def rs1Text (m : String) (f : Fields) : String := registerName f.rs1 (rs1IsFloat m)
def rs2Text (m : String) (f : Fields) : String := registerName f.rs2 (rs2IsFloat m)

/-! ## Targets (R161) -/

/-- `target = (address + imm) mod 2^XLEN`, `imm` read as signed (R161). -/
def branchTarget (x : XLen) (address : Nat) (imm : Word) : Nat :=
  (((address : Int) + imm.toInt) % ((2 ^ x.bits : Nat) : Int)).toNat

def targetText (x : XLen) (address : Nat) (f : Fields) : String := hexText (branchTarget x address f.imm)

/-! ## Text (R157 to R160) -/

def lowerChar (c : Char) : Char := if isUpper c then Char.ofNat (c.toNat + 32) else c

/-- The mnemonic in lowercase (R157). -/
def lowerText (m : String) : String := String.ofList ((layoutChars m).map lowerChar)

/-- Operands separated by `,` with no spaces (R157). -/
def joinOperands : List String → String
  | [] => ""
  | [a] => a
  | a :: rest => a ++ "," ++ joinOperands rest

/-- `mnemonic operands`; with no operands, the mnemonic alone (log 9). -/
def line (mnemonic : String) (ops : List String) : String :=
  match ops with
  | [] => mnemonic
  | _ => mnemonic ++ " " ++ joinOperands ops

/-- The FCVT entries that convert between a floating-point and an integer value (R158). -/
def isIntegerFcvt (m : String) : Bool :=
  m ∈ ["FCVT.W.S", "FCVT.WU.S", "FCVT.L.S", "FCVT.LU.S", "FCVT.W.D", "FCVT.WU.D", "FCVT.L.D", "FCVT.LU.D",
    "FCVT.S.W", "FCVT.S.WU", "FCVT.S.L", "FCVT.S.LU", "FCVT.D.W", "FCVT.D.WU", "FCVT.D.L", "FCVT.D.LU"]

/-- The entries whose tag I operands are written `rd,imm(rs1)` (R160): the loads and JALR. -/
def hasOffsetForm (m : String) : Bool := m ∈ ["JALR", "LB", "LH", "LW", "LBU", "LHU", "LWU", "LD", "FLW", "FLD"]

/-- The letters of a FENCE set, from its four bits (R160). Which bit each letter names the spec does not say: bit 3 for `i`, 2 for `o`,
1 for `r` and 0 for `w` are PRESUMED, the RISC-V family's (log 9). -/
def fenceSet (bits : BitVec 4) : String :=
  String.ofList ((if bits.getLsbD 3 then ['i'] else []) ++ (if bits.getLsbD 2 then ['o'] else []) ++
    (if bits.getLsbD 1 then ['r'] else []) ++ (if bits.getLsbD 0 then ['w'] else []))

/-- `.aq`, `.rl` or `.aqrl` (R160). -/
def orderingSuffix (t : Tag) (f : Fields) : String :=
  match t with
  | .rAmo | .rLr =>
    if f.aq && f.rl then ".aqrl" else if f.aq then ".aq" else if f.rl then ".rl" else ""
  | _ => ""

/-- The produced fields in the order rd, rs1, rs2, imm or shamt: the operands of the other compressed tags (R160). -/
def producedOperands (m : String) (t : Tag) (f : Fields) : List String :=
  let fv := tagFvalid t
  (if fv.getLsbD 0 then [rdText m f] else []) ++ (if fv.getLsbD 1 then [rs1Text m f] else []) ++
    (if fv.getLsbD 2 then [rs2Text m f] else []) ++ (if fv.getLsbD 4 then [intText f.imm.toInt] else []) ++
    (if fv.getLsbD 6 then [natText f.shamt.toNat] else [])

/-- The operands of an entry by its tag (R160). -/
def operandList (lk : Lookup) (x : XLen) (address : Nat) (m : String) (t : Tag) (f : Fields) : List String :=
  match t with
  | .none => []
  | .r | .rRm => [rdText m f, rs1Text m f, rs2Text m f]
  | .r2 => [rdText m f, rs1Text m f]
  | .r2Rm => [rdText m f, rs1Text m f] ++ (if isIntegerFcvt m then [roundingName f.rm] else [])
  | .rS => [rs1Text m f, rs2Text m f]
  | .r4Rm => [rdText m f, rs1Text m f, rs2Text m f, registerName f.rs3 true]
  | .rAmo => [rdText m f, rs2Text m f, "(" ++ rs1Text m f ++ ")"]
  | .rLr => [rdText m f, "(" ++ rs1Text m f ++ ")"]
  | .i =>
    if m = "FENCE" then [fenceSet (f.imm.extractLsb 7 4), fenceSet (f.imm.extractLsb 3 0)]
    else if hasOffsetForm m then [rdText m f, intText f.imm.toInt ++ "(" ++ rs1Text m f ++ ")"]
    else [rdText m f, rs1Text m f, intText f.imm.toInt]
  | .iSh5 | .iSh6 => [rdText m f, rs1Text m f, natText f.shamt.toNat]
  | .iCsr => [rdText m f, csrName lk f.csr, rs1Text m f]
  | .iCsri => [rdText m f, csrName lk f.csr, intText f.imm.toInt]
  | .s => [rs2Text m f, intText f.imm.toInt ++ "(" ++ rs1Text m f ++ ")"]
  | .b => [rs1Text m f, rs2Text m f, targetText x address f]
  | .u => [rdText m f, intText (f.imm.toInt / 4096)]
  | .j => [rdText m f, targetText x address f]
  | .cbBr => [rs1Text m f, targetText x address f]
  | .cj => [targetText x address f]
  | _ => producedOperands m t f

/-- The special cases of the floating-point CSRs (R159). -/
def floatCsrText (m : String) (f : Fields) : Option String :=
  let rd := registerName f.rd false
  let rs1 := registerName f.rs1 false
  let withRd (name op : String) := some (if f.rd = 0#5 then line name [op] else line name [rd, op])
  if m = "CSRRS" ∧ f.csr = 0x003#12 ∧ f.rs1 = 0#5 then some (line "frcsr" [rd])
  else if m = "CSRRW" ∧ f.csr = 0x003#12 then withRd "fscsr" rs1
  else if m = "CSRRS" ∧ f.csr = 0x001#12 ∧ f.rs1 = 0#5 then some (line "frflags" [rd])
  else if m = "CSRRW" ∧ f.csr = 0x001#12 then withRd "fsflags" rs1
  else if m = "CSRRWI" ∧ f.csr = 0x002#12 then withRd "fsrmi" (intText f.imm.toInt)
  else none

/-- The general rows for CSR operations (R158): read-only `csrr`, then the write-only forms with rd left out. -/
def csrText (lk : Lookup) (m : String) (f : Fields) : Option String :=
  let csr := csrName lk f.csr
  let rs1 := registerName f.rs1 false
  let imm := intText f.imm.toInt
  if m = "CSRRS" ∧ f.rs1 = 0#5 then some (line "csrr" [registerName f.rd false, csr])
  else if f.rd ≠ 0#5 then none
  else if m = "CSRRW" then some (line "csrw" [csr, rs1])
  else if m = "CSRRS" then some (line "csrs" [csr, rs1])
  else if m = "CSRRC" then some (line "csrc" [csr, rs1])
  else if m = "CSRRWI" then some (line "csrwi" [csr, imm])
  else if m = "CSRRSI" then some (line "csrsi" [csr, imm])
  else if m = "CSRRCI" then some (line "csrci" [csr, imm])
  else none

/-- The mandatory canonicalisations of 32-bit entries: the first row of R158 that applies, or none. -/
def canonicalText (lk : Lookup) (x : XLen) (address : Nat) (m : String) (f : Fields) : Option String :=
  let rd := registerName f.rd false
  let rs1 := registerName f.rs1 false
  let rs2 := registerName f.rs2 false
  let imm := intText f.imm.toInt
  let target := targetText x address f
  if m = "ADDI" ∧ f.rd = 0#5 ∧ f.rs1 = 0#5 ∧ f.imm = 0#32 then some "nop"
  else if m = "ADDI" ∧ f.rs1 = 0#5 then some (line "li" [rd, imm])
  else if m = "ADDI" ∧ f.imm = 0#32 then some (line "mv" [rd, rs1])
  else if m = "JALR" ∧ f.rd = 0#5 ∧ f.rs1 = 1#5 ∧ f.imm = 0#32 then some "ret"
  else if m = "JALR" ∧ f.rd = 1#5 ∧ f.imm = 0#32 then some (line "jalr" [rs1])
  else if m = "JALR" then some (line "jalr" [rd, imm ++ "(" ++ rs1 ++ ")"])
  else if m = "XORI" ∧ f.imm = 0xFFFFFFFF#32 then some (line "not" [rd, rs1])
  else if m = "SUB" ∧ f.rs1 = 0#5 then some (line "neg" [rd, rs2])
  else if m = "JAL" ∧ f.rd = 0#5 then some (line "j" [target])
  else if m = "BEQ" ∧ f.rs2 = 0#5 then some (line "beqz" [rs1, target])
  else if m = "BNE" ∧ f.rs2 = 0#5 then some (line "bnez" [rs1, target])
  else if m = "BLT" ∧ f.rs2 = 0#5 then some (line "bltz" [rs1, target])
  else if m = "BGE" ∧ f.rs2 = 0#5 then some (line "bgez" [rs1, target])
  else if m ∈ ["CSRRW", "CSRRS", "CSRRC", "CSRRWI", "CSRRSI", "CSRRCI"] then
    match floatCsrText m f with
    | some t => some t
    | none => csrText lk m f
  else if isIntegerFcvt m ∧ f.rm = 7#3 then some (line (lowerText m) [rdText m f, rs1Text m f])
  else none

/-- `assemblyText` of a slot decoded at `address`, with the mnemonics kept beside the ROM (R156, R157). -/
def assemblyText (lk : Lookup) (x : XLen) (names : List String) (address : Nat) (o : Stage2) : String :=
  if !o.hit then "illegal"
  else
    let m := names.getD o.index ""
    match if o.len4 then canonicalText lk x address m o.fields else none with
    | some t => t
    | none =>
      if m ∈ lk.unformatted then lk.placeholder
      else
        let t := (tagOfCode (extractorCode o.fmt o.word)).getD .none
        line (lowerText m ++ orderingSuffix t o.fields) (operandList lk x address m t o.fields)

/-- The Disassembly record of a slot decoded at `address` (R156). -/
def recordOf (lk : Lookup) (x : XLen) (names : List String) (address : Nat) (o : Stage2) : Disassembly where
  address := address % 2 ^ x.bits
  addressBitWidth := x.bits
  rawInstructionWord := o.word
  instructionByteLength := byteLength o
  assemblyText := assemblyText lk x names address o

/-- Walking an instruction stream (R155): at most `fuel` words from `address` on, until the bytes are used up. Each word is
presented valid, its result is `DECODE` of it, and the walk goes on at `a + len`, for a hit and for a NoMatch alike. -/
def walkStream (lk : Lookup) (x : XLen) (names : List String) (rom : List Entry) : Nat → Nat → List Byte → List Disassembly
  | 0, _, _ => []
  | _ + 1, _, [] => []
  | fuel + 1, address, b :: bytes =>
    let o := decodeSlot rom true (streamWord (b :: bytes))
    recordOf lk x names address o ::
      walkStream lk x names rom fuel (address + byteLength o) ((b :: bytes).drop (byteLength o))

end Sys2Proof.Machine
end

