-- ==== Sys2Proof/Machine/Elaborate.lean ====
section
/-! DEFINITION. Initialisation (R182): elaboration builds the ROM and computes `EXT_SET`, and gives a powered-up machine whose
registers are unspecified until the first reset edge (R180); or there is no block, because a definition is malformed (R168) or
the word width has no reference catalog (R6, R140). -/

namespace Sys2Proof.Machine

/-- Free stage-1 registers at power-up, within their widths for a catalog of `n` entries (R180, R8). -/
def powerUpStage1 (n : Nat) : Stage1 where
  valid := (Config.powerUp 0).getLsbD 0
  len4 := (Config.powerUp 1).getLsbD 0
  word := Config.powerUp 2
  hit := (Config.powerUp 3).getLsbD 0
  index := (Config.powerUp 4).toNat % 2 ^ idxWidth n
  fmt := (Config.powerUp 5).setWidth 6

/-- Free stage-2 registers at power-up, within their widths (R180, R8). -/
def powerUpStage2 (n : Nat) : Stage2 where
  valid := (Config.powerUp 6).getLsbD 0
  len4 := (Config.powerUp 7).getLsbD 0
  word := Config.powerUp 8
  hit := (Config.powerUp 9).getLsbD 0
  index := (Config.powerUp 10).toNat % 2 ^ idxWidth n
  fmt := (Config.powerUp 11).setWidth 6
  fvalid := (Config.powerUp 12).setWidth 10
  fields :=
    { rd := (Config.powerUp 13).setWidth 5, rs1 := (Config.powerUp 14).setWidth 5, rs2 := (Config.powerUp 15).setWidth 5,
      rs3 := (Config.powerUp 16).setWidth 5, imm := Config.powerUp 17, csr := (Config.powerUp 18).setWidth 12,
      shamt := (Config.powerUp 19).setWidth 6, rm := (Config.powerUp 20).setWidth 3, aq := (Config.powerUp 21).getLsbD 0,
      rl := (Config.powerUp 22).getLsbD 0 }

/-- The machine between power-up and the first reset edge, for a built catalog (R180). -/
def State.powerUp (x : XLen) (c : Catalog) : State where
  xlen := x
  rom := c.entries
  extSet := c.extSet
  s1 := powerUpStage1 c.entries.length
  out := powerUpStage2 c.entries.length
  ports := Ports.idle
  stimulus := []

/-- The word widths `buildISA` takes (R6). -/
def xlenOfWidth : Nat → Option XLen
  | 32 => some .rv32
  | 64 => some .rv64
  | 128 => some .rv128
  | _ => none

/-- The modules a build composes (R7): those given, else the reference composition where the XLEN has one (R138, R140). -/
def modulesFor (x : XLen) (given : Option (List CatalogModule)) : Option (List CatalogModule) :=
  match given with
  | some ms => some ms
  | none => if x = .rv128 then none else some (referenceModules x)

/-- Elaboration of a block: `buildISA(wordWidth, moduleSet)` (R6, R77, R168, R182). -/
def elaborate (wordWidth : Nat) (given : Option (List CatalogModule)) : Result :=
  match xlenOfWidth wordWidth with
  | none => .refused (.noReferenceCatalog wordWidth)
  | some x =>
    match modulesFor x given with
    | none => .refused (.noReferenceCatalog wordWidth)
    | some ms =>
      match build ms with
      | .error e => .fault (.malformedDefinition e)
      | .ok c => .next (State.powerUp x c)

end Sys2Proof.Machine
end

