-- ==== Sys2Proof/Safety.lean ====
section
/-! DEFINITION. The terms claims are made in: which edges accept a word, the invariants of ROM entries and of the two stages, what it
means that an instruction completes as an entry of the reference catalog, and the output slots of a run. -/

namespace Sys2Proof.Machine

/-! ## Edges (R183) -/

/-- The levels of an enabled edge: `rst = 0` and `en = 1` (R183). -/
def Ports.enabled (p : Ports) : Bool := !p.rst && p.en

/-- The levels of an edge that holds every register: `rst = 0` and `en = 0` (R183). -/
def Ports.stalled (p : Ports) : Bool := !p.rst && !p.en

/-! ## Invariants -/

/-- The invariants (I1), (I2) and (I3) of a catalog entry (R20). -/
def entryOk (e : Entry) : Prop :=
  e.value &&& ~~~e.mask = 0#32 ∧
    (e.w16 = true → e.mask.extractLsb 31 16 = 0#16 ∧ e.value.extractLsb 31 16 = 0#16) ∧ codeAllowed e.w16 e.fmt = true

/-- What a slot holds at all times: a truncated word with its length class, an index that fits its port, the first match when there
is a hit, zeros when there is none; and a valid slot without a hit is a NoMatch. -/
def slotOk (rom : List Entry) (valid len4 : Bool) (word : Word) (hit : Bool) (index : Nat) (fmt : Code) : Prop :=
  truncWord word = word ∧ len4 = isLen4 word ∧ index < 2 ^ idxWidth rom.length ∧
    (hit = true → firstMatch rom word = some index ∧ rom[index]?.map Entry.fmt = some fmt) ∧
    (hit = false → index = 0 ∧ fmt = 0#6 ∧ (valid = true → firstMatch rom word = none))

/-- What every state that follows a reset edge satisfies: the ROM's entries are well formed, both stages hold a slot whose tag code is
one that the word's width class may carry, and the field outputs are what that code extracts from the word. -/
structure State.Inv (s : State) : Prop where
  entries : ∀ e ∈ s.rom, entryOk e
  stage1 : slotOk s.rom s.s1.valid s.s1.len4 s.s1.word s.s1.hit s.s1.index s.s1.fmt
  stage2 : slotOk s.rom s.out.valid s.out.len4 s.out.word s.out.hit s.out.index s.out.fmt
  codes : codeAllowed (!isLen4 s.s1.word) s.s1.fmt = true ∧ codeAllowed (!isLen4 s.out.word) s.out.fmt = true
  fvalid : s.out.fvalid = fvalidOf s.out.fmt
  fields : s.out.fields = fieldsOf s.out.fmt s.out.word

/-! ## Completion of an instruction -/

/-- The instruction `i` completes as entry `index` of the reference catalog of `x`: its word has the entry's literal bits; at every
enabled edge of a block with that ROM, in any state, its meaning gives the next state in which stage 1 holds the word with a hit at
that entry and the entry's tag code, stage 2 holds the extraction of the stage-1 registers before the edge, and nothing else changes;
and the next enabled edge after it, whatever word that edge presents, shows the slot on the outputs, with the field-valid vector `fv`
and the fields `f`. -/
def CompletesAs (x : XLen) (i : Instr) (index : Nat) (value mask : Word) (len4 : Bool) (code : Code) (fv : BitVec 10)
    (f : Fields) : Prop :=
  encode i &&& mask = value ∧
    ∀ s : State, s.rom = referenceRom x → s.ports.rst = false → s.ports.en = true →
      ∃ t, exec i s = .next t ∧
        t = { s with s1 := ⟨s.ports.inValid, len4, encode i, true, index, code⟩, out := extractSlot s.s1 } ∧
        ∀ (p : Ports) (w : Word), p.rst = false → p.en = true →
          (edgeWith w { t with ports := p }).out = ⟨s.ports.inValid, len4, encode i, true, index, code, fv, f⟩

/-- The instruction completes at `ix32` of the XLEN=32 catalog and at `ix64` of the XLEN=64 catalog (R139, both index columns). -/
def InBoth (i : Instr) (ix32 ix64 : Nat) (value mask : Word) (len4 : Bool) (code : Code) (fv : BitVec 10) (f : Fields) : Prop :=
  CompletesAs .rv32 i ix32 value mask len4 code fv f ∧ CompletesAs .rv64 i ix64 value mask len4 code fv f

/-- The instruction is an entry of the XLEN=32 catalog only (R139, `-` under `ix64`). -/
def In32 (i : Instr) (ix32 : Nat) (value mask : Word) (len4 : Bool) (code : Code) (fv : BitVec 10) (f : Fields) : Prop :=
  i.presentIn .rv64 = false ∧ CompletesAs .rv32 i ix32 value mask len4 code fv f

/-- The instruction is an entry of the XLEN=64 catalog only (R139, `-` under `ix32`). -/
def In64 (i : Instr) (ix64 : Nat) (value mask : Word) (len4 : Bool) (code : Code) (fv : BitVec 10) (f : Fields) : Prop :=
  i.presentIn .rv32 = false ∧ CompletesAs .rv64 i ix64 value mask len4 code fv f

/-- The reference block of `x`, asked for one word, answers with this instruction of this entry. -/
def WordIs (x : XLen) (w : Word) (index : Nat) (i : Instr) : Prop :=
  (decodeWord x w).toOption = some i ∧ firstMatch (referenceRom x) w = some index

/-- The reference block of `x` answers NoMatch to this word. -/
def WordIsNoMatch (x : XLen) (w : Word) : Prop := firstMatch (referenceRom x) w = none

/-! ## Runs -/

/-- The state after one step with the levels `p` on the input ports. -/
def stepWith (p : Ports) (s : State) : Result := step { s with ports := p, stimulus := [] }

/-- The output slots of a run: what the outputs show after each enabled edge, for a list of port levels. Every edge is one step. -/
def outputsOver : List Ports → State → List Stage2
  | [], _ => []
  | p :: ps, s =>
    match stepWith p s with
    | .next t => if p.enabled then t.out :: outputsOver ps t else outputsOver ps t
    | _ => []

/-- Every port level of the list holds the registers. -/
def allStalled (ps : List Ports) : Prop := ∀ p ∈ ps, p.stalled = true

end Sys2Proof.Machine
end

