-- ==== Sys2Proof/Certificates/Slice0/Obligations.lean ====
section
/-! DEFINITION. The statements for the provers. Each is about every state, word or operand it names; the reference catalogs enter only
where a statement says so. -/

open Sys2Proof Sys2Proof.Machine

/-- A reset edge, in every state (R180, R34). The move of the input ports is the model's own (log 3). -/
def Obligations.ResetEdgeGivesResetValues : Prop :=
  ∀ s : State, s.ports.rst = true →
    step s = .next (nextPorts { s with
      s1 := { valid := false, len4 := false, word := 0, hit := false, index := 0, fmt := 0 }
      out := { valid := false, len4 := false, word := 0, hit := false, index := 0, fmt := 0, fvalid := 0,
               fields := { rd := 0, rs1 := 0, rs2 := 0, rs3 := 0, imm := 0, csr := 0, shamt := 0, rm := 0,
                           aq := false, rl := false } } })

/-- The two stage updates, in every state (R92, R96). `extractorCode` is `s1_fmt` itself but for a code no built ROM holds, which is NONE (R57,
R95); that NONE is taken for extraction alone, `out_fmt` copying `s1_fmt`, and that the class is read from the low bits of `s1_word`, is the
model's choice (log 12). -/
def Obligations.StageRegistersUpdate : Prop :=
  ∀ s : State, ∃ t, step s = .next t ∧
    t.s1 =
      (if s.ports.rst then { valid := false, len4 := false, word := 0, hit := false, index := 0, fmt := 0 }
       else if s.ports.en then
        { valid := s.ports.inValid, len4 := isLen4 s.ports.inWord, word := truncWord s.ports.inWord,
          hit := matchHit s.rom s.ports.inWord, index := matchIndex s.rom s.ports.inWord, fmt := matchFmt s.rom s.ports.inWord }
       else s.s1) ∧
    t.out =
      (if s.ports.rst then
        { valid := false, len4 := false, word := 0, hit := false, index := 0, fmt := 0, fvalid := 0, fields := {} }
       else if s.ports.en then
        { valid := s.s1.valid, len4 := s.s1.len4, word := s.s1.word, hit := s.s1.hit, index := s.s1.index, fmt := s.s1.fmt,
          fvalid := fvalidOf (extractorCode s.s1.fmt s.s1.word),
          fields := fieldsOf (extractorCode s.s1.fmt s.s1.word) s.s1.word }
       else s.out)

/-- Comparators, priority encoder and format selection, for every ROM (R87, R88, R89). -/
def Obligations.MatcherSelectsFirstMatch : Prop :=
  ∀ (rom : List Entry) (w : Word),
    let len4 : Bool := w.extractLsb 1 0 == 0b11#2
    let wt : Word := if len4 then w else 0#16 ++ w.extractLsb 15 0
    let m : Nat → Prop := fun i => ∃ e, rom[i]? = some e ∧ e.w16 = !len4 ∧ wt &&& e.mask = e.value
    (matchHit rom w = true ↔ ∃ i, m i) ∧
    (matchHit rom w = true → ∀ k, matchIndex rom w = k ↔ m k ∧ ∀ j < k, ¬ m j) ∧
    (matchHit rom w = true → ∃ e, rom[matchIndex rom w]? = some e ∧ matchFmt rom w = e.fmt) ∧
    (matchHit rom w = false → matchIndex rom w = 0 ∧ matchFmt rom w = 0) ∧
    matchHit [] w = false

/-- The matcher and the source's lookup agree, for every ROM (R90). -/
def Obligations.MatcherAgreesWithLinearScan : Prop :=
  ∀ (rom : List Entry) (w : Word),
    (matchHit rom w = false ↔ lookupScan rom w = none) ∧
    (matchHit rom w = true → ∃ e, rom[matchIndex rom w]? = some e ∧ lookupScan rom w = some e)

/-- The no-shadowing property (R82). -/
def Obligations.NoShadowing : Prop :=
  (∀ (rom : List Entry) (j : Nat) (e : Entry) (w : Word), rom[j]? = some e →
    truncWord w &&& e.mask = e.value → e.w16 = !isLen4 w →
    (∀ i < j, ∀ a, rom[i]? = some a → a.w16 = e.w16 → truncWord w &&& a.mask ≠ a.value) →
    firstMatch rom w = some j) ∧
  (∀ (x : XLen) (j : Nat) (e : Entry) (w : Word), (referenceRom x)[j]? = some e →
    truncWord w &&& e.mask = e.value → e.w16 = !isLen4 w →
    j ∉ (if x = .rv32 then [130, 134, 151, 152, 153] else [168, 172, 191, 192, 193]) →
    firstMatch (referenceRom x) w = some j)

/-- Totality, determinism and the frame of every instruction (R91, R169; the frame from R92, R96). -/
def Obligations.EveryEdgeAndInstructionHasANextState : Prop :=
  (∀ s : State, ∃ t, step s = .next t) ∧
  (∀ (i : Instr) (s : State), ∃ t, exec i s = .next t ∧ t.xlen = s.xlen ∧ t.rom = s.rom ∧ t.extSet = s.extSet ∧
    t.ports = s.ports ∧ t.stimulus = s.stimulus ∧
    (s.ports.rst = true → t.s1 = Stage1.reset ∧ t.out = Stage2.reset) ∧
    (s.ports.rst = false → s.ports.en = false → t = s)) ∧
  (∀ s s' t t' : State, s.rom = s'.rom → s.ports.enabled = true → s'.ports.enabled = true →
    s.ports.inWord = s'.ports.inWord → step s = .next t → step s' = .next t' →
    t.s1.len4 = t'.s1.len4 ∧ t.s1.word = t'.s1.word ∧ t.s1.hit = t'.s1.hit ∧ t.s1.index = t'.s1.index ∧
      t.s1.fmt = t'.s1.fmt) ∧
  (∀ w : Word, matchHit [] w = false)

/-- Truncation (R85, R86). -/
def Obligations.UpperHalfIsDiscarded : Prop :=
  (∀ (s t t' : State) (p : Ports) (w w' : Word), w.extractLsb 1 0 ≠ 0b11#2 → w.extractLsb 15 0 = w'.extractLsb 15 0 →
    stepWith { p with inWord := w } s = .next t → stepWith { p with inWord := w' } s = .next t' →
    t.s1 = t'.s1 ∧ t.out = t'.out ∧ (p.enabled = true → t.s1.len4 = false ∧ t.s1.word = 0#16 ++ w.extractLsb 15 0)) ∧
  (∀ (s t : State) (p : Ports), p.enabled = true → p.inWord.extractLsb 1 0 = 0b11#2 → stepWith p s = .next t →
    t.s1.len4 = true ∧ t.s1.word = p.inWord)

/-- The ROM is constant (R21). -/
def Obligations.CatalogIsConstant : Prop :=
  (∀ s t : State, step s = .next t → t.rom = s.rom ∧ t.extSet = s.extSet ∧ t.xlen = s.xlen) ∧
  (∀ (i : Instr) (s t : State), exec i s = .next t → t.rom = s.rom ∧ t.extSet = s.extSet ∧ t.xlen = s.xlen)

/-- The invariant at reset; that registers are free before the first reset edge is why it needs one (R180). -/
def Obligations.InvariantHoldsAfterReset : Prop :=
  State.reset.Inv ∧
  (∀ s t : State, (∀ e ∈ s.rom, entryOk e) → s.ports.rst = true → step s = .next t → t.Inv)

/-- The invariant, from every state that satisfies it. -/
def Obligations.StepKeepsInvariant : Prop :=
  ∀ s t : State, s.Inv → step s = .next t → t.Inv

/-- Latency, stall and reset (R183). That the ports take the next levels of a list is the model's own (log 3); so is its reading of R57 and R95
for a ROM that holds a reserved code or one of the other width class, NONE for extraction while `out_fmt` shows the code (log 12). -/
def Obligations.PipelineTiming : Prop :=
  (∀ (s : State) (V : Bool) (W : Word) (hold hold' : List Ports) (p : Ports), s.ports = ⟨false, true, V, W⟩ →
    s.stimulus = hold ++ p :: hold' → allStalled hold → p.enabled = true → allStalled hold' →
    ∃ t, Host.Core.run Sys2Proof.core (hold.length + hold'.length + 2) s = .next t ∧
      t.out =
        { valid := V, len4 := isLen4 W, word := truncWord W, hit := matchHit s.rom W, index := matchIndex s.rom W,
          fmt := matchFmt s.rom W, fvalid := fvalidOf (extractorCode (matchFmt s.rom W) W),
          fields := fieldsOf (extractorCode (matchFmt s.rom W) W) (truncWord W) }) ∧
  (∀ (s : State) (p : Ports), p.stalled = true → stepWith p s = .next { s with ports := p, stimulus := [] }) ∧
  (∀ (s : State) (p : Ports), p.rst = true →
    stepWith p s = .next { s with ports := p, stimulus := [], s1 := Stage1.reset, out := Stage2.reset })

/-- The stream of outputs (R45, R183). -/
def Obligations.OutputsAppearInOrder : Prop :=
  ∀ (ps : List Ports) (s : State), (∀ p ∈ ps, p.rst = false) →
    outputsOver ps s =
      (extractSlot s.s1 :: (ps.filter Ports.enabled).map (fun p => decodeSlot s.rom p.inValid p.inWord)).dropLast

/-- Idempotence (R165, R43) and bubbles (R35). -/
def Obligations.SameWordSameOutputsAndBubblesDecode : Prop :=
  (∀ (s s' t t' u u' : State) (a a' b b' : Ports), s.rom = s'.rom → a.enabled = true → a'.enabled = true →
    b.enabled = true → b'.enabled = true → a.inWord = a'.inWord → a.inValid = a'.inValid →
    stepWith a s = .next t → stepWith b t = .next u → stepWith a' s' = .next t' → stepWith b' t' = .next u' →
    u.out = u'.out ∧ ∀ (lk : Lookup) (x : XLen) (names : List String) (address : Nat),
      recordOf lk x names address u.out = recordOf lk x names address u'.out) ∧
  (∀ (s : State) (w : Word) (b : Ports), b.enabled = true → ∃ t u t' u',
    stepWith ⟨false, true, false, w⟩ s = .next t ∧ stepWith b t = .next u ∧
    stepWith ⟨false, true, true, w⟩ s = .next t' ∧ stepWith b t' = .next u' ∧
    u.out = { u'.out with valid := false } ∧ u'.out.valid = true)

/-- The NoMatch result (R166, R157). -/
def Obligations.NoMatchIsANormalResult : Prop :=
  ∀ (s : State) (v : Bool) (w : Word) (b : Ports), (∀ e ∈ s.rom, entryMatches e w = false) → b.enabled = true →
    ∃ t u, stepWith ⟨false, true, v, w⟩ s = .next t ∧ stepWith b t = .next u ∧
      u.out = { valid := v, len4 := w.extractLsb 1 0 == 0b11#2, word := truncWord w, hit := false, index := 0, fmt := 0,
                fvalid := 0, fields := {} } ∧
      u.s1 = matchSlot s.rom b.inValid b.inWord ∧
      (∀ (lk : Lookup) (x : XLen) (names : List String) (address : Nat),
        assemblyText lk x names address u.out = "illegal") ∧
      byteLength u.out = if w.extractLsb 1 0 = 0b11#2 then 4 else 2

/-- The compiler keeps the entry invariants (R20, R71, R73). -/
def Obligations.BuiltCatalogEntriesAreWellFormed : Prop :=
  (∀ (ms : List CatalogModule) (c : Catalog), build ms = .ok c →
    c.names.length = c.entries.length ∧ ∀ e ∈ c.entries,
      e.value &&& ~~~e.mask = 0 ∧
      (e.w16 = true → e.mask.extractLsb 31 16 = 0 ∧ e.value.extractLsb 31 16 = 0) ∧
      ((e.w16 = false ∧ e.fmt.toNat ≤ 17) ∨ (e.w16 = true ∧ (e.fmt = 0 ∨ (32 ≤ e.fmt.toNat ∧ e.fmt.toNat ≤ 51))))) ∧
  (∀ d : Definition, compile d ≠ .error .m6)

/-- Composition (R75), with the extension set (R78) and the diagnostics (R79, R80) of the catalog; and the definitions of a module share its
width and name it (R67). -/
def Obligations.CompositionOrder : Prop :=
  (∀ (ms : List CatalogModule) (c : Catalog), build ms = .ok c ↔
    ∃ l : List (Entry × String), (ms.flatMap CatalogModule.defs).map compile = l.map Except.ok ∧
      c.entries = (l.filter (fun e => !e.1.w16) ++ l.filter (fun e => e.1.w16)).map Prod.fst ∧
      c.names = (l.filter (fun e => !e.1.w16) ++ l.filter (fun e => e.1.w16)).map Prod.snd ∧
      c.extSet = extensionSet ms ∧ c.diagnostics = diagnostics c.entries) ∧
  (∀ m : CatalogModule, ∀ d ∈ m.defs, d.width = m.width ∧ d.moduleName = m.name)

/-- The first failure (R76, R72). -/
def Obligations.FirstFailureStopsTheBuild : Prop :=
  (∀ (pre post : List CatalogModule) (m : CatalogModule) (a b : List Definition) (d : Definition) (r : Reason),
    (∀ m' ∈ pre, ∀ d' ∈ m'.defs, ∃ e, compile d' = .ok e) → m.defs = a ++ d :: b →
    (∀ d' ∈ a, ∃ e, compile d' = .ok e) → compile d = .error r →
    build (pre ++ m :: post) = .error ⟨m.name, a.length, d.layout, r⟩) ∧
  (∀ ms : List CatalogModule, (∃ c, build ms = .ok c) ↔ ∀ m ∈ ms, ∀ d ∈ m.defs, ∃ e, compile d = .ok e)

/-- The reference composition builds the reference ROM (R138, R38). -/
def Obligations.ReferenceCatalogsBuild : Prop :=
  (∀ x : XLen, x = .rv32 ∨ x = .rv64 →
    (referenceModules x).map CatalogModule.name = ["RV32I", "RV64I", "Zifencei", "Zicsr", "RV32M", "RV64M", "RV32A", "RV64A",
      "RV32F", "RV64F", "RV32D", "RV64D", "Priv", "RVC"] ∧
    (referenceModules x).map CatalogModule.width = [32, 32, 32, 32, 32, 32, 32, 32, 32, 32, 32, 32, 32, 16] ∧
    ∃ c, build (referenceModules x) = .ok c ∧ c.entries = referenceRom x ∧ c.names = referenceNames x ∧ c.extSet = 0x1C00112D) ∧
  (∀ m ∈ referenceModules .rv32, m.name ∈ ["RV64I", "RV64M", "RV64A", "RV64F", "RV64D"] → m.defs = []) ∧
  (referenceRom .rv32).length = 157 ∧ (referenceRom .rv64).length = 197 ∧
  (∀ (k : Nat) (e : Entry), (referenceRom .rv32)[k]? = some e → (e.w16 = true ↔ 122 ≤ k)) ∧
  (∀ (k : Nat) (e : Entry), (referenceRom .rv64)[k]? = some e → (e.w16 = true ↔ 160 ≤ k))

/-- The worked example of the compiler (R84). -/
def Obligations.BeqLayoutCompiles : Prop :=
  (∃ ts, checkTokens ((splitLayout "imm[12|10:5] rs2 rs1 000 imm[4:1|11] 1100011 BEQ").dropLast) = .ok ts ∧
    ts.map Prod.snd = [7, 5, 5, 3, 5, 7]) ∧
  compile ⟨"imm[12|10:5] rs2 rs1 000 imm[4:1|11] 1100011 BEQ", 32, 15, "RV32I"⟩ =
    .ok (⟨0x00000063, 0x0000707F, false, 15⟩, "BEQ") ∧
  packEntry ⟨0x00000063, 0x0000707F, false, 15⟩ = 0x1E0000707F00000063 ∧
  compile ⟨"imm[12|10:5] rs2 rs1 00 imm[4:1|11] 1100011 BEQ", 32, 15, "RV32I"⟩ = .error .m1 ∧
  compile ⟨"imm[12|10:5] rs2 rs1 000 imm[4:1|11] 1100011", 32, 15, "RV32I"⟩ = .error .m5

/-- Diagnostics of the reference catalogs (R79 to R81). The order within the list is the model's (log 10). -/
def Obligations.ReferenceDiagnostics : Prop :=
  (∃ c, build (referenceModules .rv32) = .ok c ∧ c.diagnostics =
    [.overlap 129 130, .overlap 133 134, .overlap 149 152, .overlap 149 153, .overlap 150 151, .overlap 152 153]) ∧
  (∃ c, build (referenceModules .rv64) = .ok c ∧ c.diagnostics =
    [.overlap 167 168, .overlap 171 172, .overlap 189 192, .overlap 189 193, .overlap 190 191, .overlap 192 193]) ∧
  (∀ j, 122 ≤ j → j < 157 → ∃ w, firstMatch (referenceRom .rv32) w = some j) ∧
  (∀ j, 160 ≤ j → j < 197 → ∃ w, firstMatch (referenceRom .rv64) w = some j)

/-- Which tags each width class may use (R57). The clauses about `extractSlot`, that the extractor works by the code where the class read from the
low bits of `s1_word` may carry it and by NONE where not, are the model's reading of R57 and R95 (log 12). -/
def Obligations.FormatCodesOfEachWidthClass : Prop :=
  (∀ (w16 : Bool) (c : Code), codeAllowed w16 c = true ↔
    c.toNat ≤ 17 ∧ w16 = false ∨ (c = 0 ∨ 32 ≤ c.toNat ∧ c.toNat ≤ 51) ∧ w16 = true) ∧
  (∀ (w16 : Bool) (c : Code), codeAllowed w16 c = true → c ≠ 0 → c.getLsbD 5 = w16) ∧
  (∀ d : Definition, d.width = 16 ∨ d.width = 32 → codeAllowed (d.width == 16) d.tag = false → compile d = .error .m8) ∧
  (∀ s1 : Stage1, codeAllowed (!isLen4 s1.word) s1.fmt = true →
    (extractSlot s1).fvalid = fvalidOf s1.fmt ∧ (extractSlot s1).fields = fieldsOf s1.fmt s1.word) ∧
  (∀ s1 : Stage1, codeAllowed (!isLen4 s1.word) s1.fmt = false → (extractSlot s1).fvalid = 0 ∧ (extractSlot s1).fields = {}) ∧
  (∀ (ms : List CatalogModule) (c : Catalog) (w : Word), build ms = .ok c →
    codeAllowed (!isLen4 (truncWord w)) (matchFmt c.entries w) = true)

/-- The field mux (R95), with the bit order of R25. -/
def Obligations.FieldMux : Prop :=
  (∀ (t : Tag) (w : Word), let f := fieldsOf (tagCode t) w; let v := tagValues t w; let fv := fvalidOf (tagCode t)
    fv = tagFvalid t ∧
    f.rd = (if fv.getLsbD 0 then v.rd else 0) ∧
    f.rs1 = (if fv.getLsbD 1 then v.rs1 else 0) ∧
    f.rs2 = (if fv.getLsbD 2 then v.rs2 else 0) ∧
    f.rs3 = (if fv.getLsbD 3 then v.rs3 else 0) ∧
    f.imm = (if fv.getLsbD 4 then v.imm else 0) ∧
    f.csr = (if fv.getLsbD 5 then v.csr else 0) ∧
    f.shamt = (if fv.getLsbD 6 then v.shamt else 0) ∧
    f.rm = (if fv.getLsbD 7 then v.rm else 0) ∧
    f.aq = (if fv.getLsbD 8 then v.aq else false) ∧ f.rl = (if fv.getLsbD 9 then v.rl else false)) ∧
  (∀ (c : Code) (w : Word), let f := fieldsOf c w; let fv := fvalidOf c
    (tagOfCode c = none → fv = 0) ∧ (fv = 0 → f = {})) ∧
  (∀ w : Word, fvalidOf 0 = 0 ∧ fieldsOf 0 w = {}) ∧
  (∀ a b : Stage1, a.word = b.word → a.fmt = b.fmt →
    (extractSlot a).fvalid = (extractSlot b).fvalid ∧ (extractSlot a).fields = (extractSlot b).fields)

/-- The sign rule (R97, R13). -/
def Obligations.SignRule : Prop :=
  (∀ (c : Code) (n : Nat), (c, n) ∈ ([(9, 12), (14, 12), (15, 13), (17, 21), (34, 6), (35, 18), (36, 10), (48, 9), (50, 6),
      (51, 12)] : List (Code × Nat)) →
    ∀ (w : Word) (k : Nat), n ≤ k + 1 → k < 32 → (fieldsOf c w).imm.getLsbD k = (fieldsOf c w).imm.getLsbD (n - 1)) ∧
  (∀ (c : Code) (n : Nat), (c, n) ∈ ([(13, 5), (38, 8), (39, 9), (40, 8), (41, 9), (42, 10), (43, 7), (44, 8), (45, 7),
      (46, 8)] : List (Code × Nat)) →
    ∀ (w : Word) (k : Nat), n ≤ k → (fieldsOf c w).imm.getLsbD k = false)

/-- Decode and encode agree, over all instructions and both catalogs. -/
def Obligations.DecodeOfEncodeIsTheInstruction : Prop :=
  ∀ (x : XLen) (i : Instr), WellFormed i = true → i.presentIn x = true →
    decodeWord x (encode i) = .ok i ∧
    ∀ rest : List Byte, decodeBytes x (encodeBytes i ++ rest) = .ok (i, rest)

/-- Every word has one meaning; the other words are NoMatch (R62, R166). -/
def Obligations.DecodedInstructionEncodesBack : Prop :=
  (∀ (x : XLen) (w : Word) (i : Instr), decodeWord x w = .ok i →
    WellFormed i = true ∧ i.presentIn x = true ∧ encode i = truncWord w ∧ matchHit (referenceRom x) w = true) ∧
  (∀ (x : XLen) (w : Word) (e : DecodeError), decodeWord x w = .error e →
    matchHit (referenceRom x) w = false ∧ e = (if x = .rv128 then .noCatalog else .noMatch))

/-- A step is the meaning of the decoded instruction; the move of the ports is the model's own (log 3). -/
def Obligations.StepRunsTheDecodedInstruction : Prop :=
  (∀ (s : State) (i : Instr), decodeWord s.xlen s.ports.inWord = .ok i →
    (∃ t, exec i s = .next t ∧ step s = .next (nextPorts t)) ∧ step s = driveNext (exec i s)) ∧
  (∀ (s : State) (e : DecodeError), decodeWord s.xlen s.ports.inWord = .error e →
    step s = .next (nextPorts (edgeWith s.ports.inWord s))) ∧
  (∀ (s : State) (p : Ports) (ps : List Ports), s.stimulus = p :: ps → nextPorts s = { s with ports := p, stimulus := ps }) ∧
  (∀ s : State, s.stimulus = [] → nextPorts s = s)

/-- Corner words and one word of each family (R93, R94). -/
def Obligations.CornerWordsDecode : Prop :=
  WordIs .rv32 0x00000013 18 (.addi 0 0 0) ∧
  WordIsNoMatch .rv32 0xFFFFFFFF ∧
  isLen4 0xFFFFFFFF = true ∧
  WordIsNoMatch .rv32 0x0000FFFF ∧
  isLen4 0x0000FFFF = true ∧
  truncWord 0xFFFFFFFF = 0xFFFFFFFF ∧
  truncWord 0x0000FFFF = 0x0000FFFF ∧
  isLen4 0x00000013 = true ∧
  truncWord 0x00000013 = 0x00000013 ∧
  isLen4 0x00000001 = false ∧ truncWord 0x00000001 = 0x00000001 ∧
  isLen4 0x00009002 = false ∧ truncWord 0x00009002 = 0x00009002 ∧
  isLen4 0x00006105 = false ∧ truncWord 0x00006105 = 0x00006105 ∧
  isLen4 0x00008082 = false ∧ truncWord 0x00008082 = 0x00008082 ∧
  isLen4 0x00008000 = false ∧ truncWord 0x00008000 = 0x00008000 ∧
  isLen4 0x00000000 = false ∧ truncWord 0x00000000 = 0x00000000 ∧
  (∀ p ∈ ([(0x9002, 152), (0x9002, 153), (0x6105, 134), (0x8082, 151)] : List (Word × Nat)), ((referenceRom .rv32)[p.2]?.map (entryMatches · p.1)) = some true) ∧
  WordIs .rv32 0xFFFF0001 129 .cNop ∧
  truncWord 0xFFFF0001 = 0x00000001 ∧
  isLen4 0xFFFF0001 = false ∧
  WordIs .rv32 0x0001 129 .cNop ∧
  WordIs .rv32 0x9002 149 .cEbreak ∧
  WordIs .rv32 0x6105 133 (.cAddi16sp 32) ∧
  WordIs .rv32 0x8082 150 (.cJr 1) ∧
  WordIsNoMatch .rv32 0x8000 ∧
  isLen4 0x8000 = false ∧
  WordIs .rv32 0x0000 122 (.cAddi4spn 8 0) ∧
  WordIs .rv32 0x00008067 3 (.jalr 0 1 0) ∧
  matchFmt (referenceRom .rv32) 0x00008067 = 9 ∧
  matchHit (referenceRom .rv32) 0xFFFFFFFF = false ∧ matchIndex (referenceRom .rv32) 0xFFFFFFFF = 0 ∧
  matchHit (referenceRom .rv32) 0x0000FFFF = false ∧ matchIndex (referenceRom .rv32) 0x0000FFFF = 0 ∧
  matchHit (referenceRom .rv32) 0x00008000 = false ∧ matchIndex (referenceRom .rv32) 0x00008000 = 0 ∧
  (∀ (lk : Lookup) (a : Nat), assemblyText lk .rv32 (referenceNames .rv32) a (decodeSlot (referenceRom .rv32) true 0x00008067) = "ret") ∧
  isLen4 0x00008067 = true ∧
  truncWord 0x00008067 = 0x00008067 ∧
  (referenceRom .rv32).filter (entryMatches · 0x00008067) = [⟨0x00000067, 0x0000707F, false, 9⟩] ∧
  WordIs .rv32 0x406002B3 28 (.sub 5 0 6) ∧
  WordIs .rv64 0x00813503 41 (.ld 10 2 8) ∧
  WordIs .rv32 0x0000100F 40 .fenceI ∧
  WordIs .rv32 0x123312F3 41 (.csrrw 5 6 0x123) ∧
  WordIs .rv32 0x02B50533 47 (.mul 10 10 11) ∧
  WordIs .rv32 0x0E3120AF 57 (.amoswapW 1 2 3 true true) ∧
  WordIs .rv32 0x203100C3 68 (.fmaddS 1 2 3 4 0) ∧
  WordIs .rv32 0x023170D3 98 (.faddD 1 2 3 7) ∧
  WordIs .rv32 0x12208073 121 (.sfenceVma 1 2) ∧
  WordIs .rv64 0x9C21 181 (.cAddw 8 8)

/-- Longer encodings (R51) and the opcodes with no entry (R60). -/
def Obligations.LongPrefixesAndUnlistedOpcodesAreNoMatch : Prop :=
  (∀ (x : XLen) (w : Word), w.extractLsb 4 2 = 0b111#3 → w.extractLsb 1 0 = 0b11#2 → isLen4 w = true ∧ WordIsNoMatch x w) ∧
  (∀ (x : XLen), ∀ e ∈ referenceRom x,
    ¬ (e.mask.extractLsb 4 2 = 0b111#3 ∧ e.value.extractLsb 4 2 = 0b111#3)) ∧
  (∀ (x : XLen) (w : Word), w.extractLsb 6 0 ∈ ([0b0001011, 0b0101011, 0b1011011, 0b1111011, 0b1010111, 0b1110111, 0b1101011, 0b0011111, 0b0111111, 0b1011111, 0b1111111] : List (BitVec 7)) →
    WordIsNoMatch x w)

/-- Reserved encodings (R64). -/
def Obligations.ReservedEncodingsAreNoMatch : Prop :=
  (∀ (x : XLen) (w : Word), w.extractLsb 1 0 = 0b00#2 → w.extractLsb 15 13 = 0b100#3 → WordIsNoMatch x w) ∧
  (∀ (x : XLen) (w : Word), w.extractLsb 1 0 = 0b01#2 → w.extractLsb 15 13 = 0b100#3 → w.extractLsb 12 10 = 0b111#3 →
    (w.getLsbD 6 = true ∨ x = .rv32) → WordIsNoMatch x w) ∧
  (∀ w : Word, w.extractLsb 1 0 = 0b01#2 → w.extractLsb 15 13 = 0b100#3 → w.getLsbD 12 = true → w.getLsbD 11 = false →
    WordIsNoMatch .rv32 w) ∧
  (∀ w : Word, w.extractLsb 1 0 = 0b10#2 → w.extractLsb 15 13 = 0b000#3 → w.getLsbD 12 = true → WordIsNoMatch .rv32 w) ∧
  (∀ w : Word, w &&& 0xFE00707F = 0x02001013 ∨ w &&& 0xFE00707F = 0x02005013 ∨ w &&& 0xFE00707F = 0x42005013 →
    WordIsNoMatch .rv32 w) ∧
  (∀ (x : XLen) (w : Word), w &&& 0xF800707F = 0x1000202F ∨ w &&& 0xF800707F = 0x1000302F →
    w.extractLsb 24 20 ≠ 0#5 → WordIsNoMatch x w) ∧
  (∀ (x : XLen) (w : Word), w &&& 0x0000707F = 0x0000100F → w ≠ 0x0000100F → WordIsNoMatch x w) ∧
  (∀ (x : XLen) (w : Word), w.extractLsb 6 0 ∈ ([0b0001011, 0b0101011, 0b1011011, 0b1111011, 0b1010111, 0b1110111, 0b1101011, 0b0011111, 0b0111111, 0b1011111, 0b1111111] : List (BitVec 7)) →
    WordIsNoMatch x w) ∧
  WordIsNoMatch .rv32 0x8000 ∧ WordIsNoMatch .rv32 0x907D ∧ WordIsNoMatch .rv32 0x10FE ∧ WordIsNoMatch .rv32 0x02011093 ∧
  WordIsNoMatch .rv32 0x0000108F

/-- Reserved and hint encodings that decode (R63). -/
def Obligations.ReservedAndHintEncodingsDecodeAsNamed : Prop :=
  WordIs .rv32 0x0000 122 (.cAddi4spn 8 0) ∧ WordIs .rv64 0x0000 160 (.cAddi4spn 8 0) ∧
  (∀ x : XLen, x = .rv32 ∨ x = .rv64 →
    (∀ rd, isPrime rd = true → (decodeWord x (encode (.cAddi4spn rd 0))).toOption = some (.cAddi4spn rd 0)) ∧
    encode (.cAddi16sp 0) = 0x6101 ∧ (decodeWord x (encode (.cAddi16sp 0))).toOption = some (.cAddi16sp 0) ∧
    (∀ rd : Reg, rd ≠ 2 → (decodeWord x (encode (.cLui rd 0))).toOption = some (.cLui rd 0)) ∧
    (∀ imm, fitsSext 18 imm = true → lowZero 12 imm = true → (decodeWord x (encode (.cLui 0 imm))).toOption = some (.cLui 0 imm)) ∧
    (∀ imm, fitsZext 8 imm = true → lowZero 2 imm = true → (decodeWord x (encode (.cLwsp 0 imm))).toOption = some (.cLwsp 0 imm)) ∧
    encode (.cJr 0) = 0x8002 ∧ (decodeWord x (encode (.cJr 0))).toOption = some (.cJr 0) ∧
    (∀ imm, fitsSext 6 imm = true → imm ≠ 0 → (decodeWord x (encode (.cAddi 0 imm))).toOption = some (.cAddi 0 imm)) ∧
    (∀ rd : Reg, rd ≠ 0 → (decodeWord x (encode (.cAddi rd 0))).toOption = some (.cAddi rd 0)) ∧
    (∀ imm, fitsSext 6 imm = true → (decodeWord x (encode (.cLi 0 imm))).toOption = some (.cLi 0 imm)) ∧
    (∀ rs2 : Reg, rs2 ≠ 0 → (decodeWord x (encode (.cMv 0 rs2))).toOption = some (.cMv 0 rs2) ∧ (decodeWord x (encode (.cAdd 0 rs2))).toOption = some (.cAdd 0 rs2)) ∧
    (∀ (rs1 : Reg) (imm : Word), fitsSext 12 imm = true →
      (decodeWord x (encode (.slti 0 rs1 imm))).toOption = some (.slti 0 rs1 imm) ∧
      (decodeWord x (encode (.sltiu 0 rs1 imm))).toOption = some (.sltiu 0 rs1 imm) ∧
      (decodeWord x (encode (.xori 0 rs1 imm))).toOption = some (.xori 0 rs1 imm) ∧
      (decodeWord x (encode (.ori 0 rs1 imm))).toOption = some (.ori 0 rs1 imm) ∧
      (decodeWord x (encode (.andi 0 rs1 imm))).toOption = some (.andi 0 rs1 imm) ∧
      (decodeWord x (encode (.addi 0 rs1 imm))).toOption = some (.addi 0 rs1 imm)) ∧
    (∀ rs1 rs2 : Reg,
      (decodeWord x (encode (.add 0 rs1 rs2))).toOption = some (.add 0 rs1 rs2) ∧
      (decodeWord x (encode (.sub 0 rs1 rs2))).toOption = some (.sub 0 rs1 rs2) ∧
      (decodeWord x (encode (.sll 0 rs1 rs2))).toOption = some (.sll 0 rs1 rs2) ∧
      (decodeWord x (encode (.slt 0 rs1 rs2))).toOption = some (.slt 0 rs1 rs2) ∧
      (decodeWord x (encode (.sltu 0 rs1 rs2))).toOption = some (.sltu 0 rs1 rs2) ∧
      (decodeWord x (encode (.xor 0 rs1 rs2))).toOption = some (.xor 0 rs1 rs2) ∧
      (decodeWord x (encode (.srl 0 rs1 rs2))).toOption = some (.srl 0 rs1 rs2) ∧
      (decodeWord x (encode (.sra 0 rs1 rs2))).toOption = some (.sra 0 rs1 rs2) ∧
      (decodeWord x (encode (.or 0 rs1 rs2))).toOption = some (.or 0 rs1 rs2) ∧
      (decodeWord x (encode (.and 0 rs1 rs2))).toOption = some (.and 0 rs1 rs2) ∧
      (decodeWord x (encode (.mul 0 rs1 rs2))).toOption = some (.mul 0 rs1 rs2) ∧
      (decodeWord x (encode (.mulh 0 rs1 rs2))).toOption = some (.mulh 0 rs1 rs2) ∧
      (decodeWord x (encode (.mulhsu 0 rs1 rs2))).toOption = some (.mulhsu 0 rs1 rs2) ∧
      (decodeWord x (encode (.mulhu 0 rs1 rs2))).toOption = some (.mulhu 0 rs1 rs2) ∧
      (decodeWord x (encode (.div 0 rs1 rs2))).toOption = some (.div 0 rs1 rs2) ∧
      (decodeWord x (encode (.divu 0 rs1 rs2))).toOption = some (.divu 0 rs1 rs2) ∧
      (decodeWord x (encode (.rem 0 rs1 rs2))).toOption = some (.rem 0 rs1 rs2) ∧
      (decodeWord x (encode (.remu 0 rs1 rs2))).toOption = some (.remu 0 rs1 rs2)) ∧
    (∀ w : Word, w &&& 0x0000707F = 0x0000000F →
      (decodeWord x w).toOption = some (.fence (w.extractLsb 11 7) (w.extractLsb 19 15) (sext 12 (w.extractLsb 31 20)))) ∧
    (∀ (rd rs1 rs2 rs3 : Reg) (rm : BitVec 3), rm = 0b101 ∨ rm = 0b110 →
      (decodeWord x (encode (.fmaddS rd rs1 rs2 rs3 rm))).toOption = some (.fmaddS rd rs1 rs2 rs3 rm) ∧
      (decodeWord x (encode (.fmsubS rd rs1 rs2 rs3 rm))).toOption = some (.fmsubS rd rs1 rs2 rs3 rm) ∧
      (decodeWord x (encode (.fnmsubS rd rs1 rs2 rs3 rm))).toOption = some (.fnmsubS rd rs1 rs2 rs3 rm) ∧
      (decodeWord x (encode (.fnmaddS rd rs1 rs2 rs3 rm))).toOption = some (.fnmaddS rd rs1 rs2 rs3 rm) ∧
      (decodeWord x (encode (.faddS rd rs1 rs2 rm))).toOption = some (.faddS rd rs1 rs2 rm) ∧
      (decodeWord x (encode (.fsubS rd rs1 rs2 rm))).toOption = some (.fsubS rd rs1 rs2 rm) ∧
      (decodeWord x (encode (.fmulS rd rs1 rs2 rm))).toOption = some (.fmulS rd rs1 rs2 rm) ∧
      (decodeWord x (encode (.fdivS rd rs1 rs2 rm))).toOption = some (.fdivS rd rs1 rs2 rm) ∧
      (decodeWord x (encode (.fsqrtS rd rs1 rm))).toOption = some (.fsqrtS rd rs1 rm) ∧
      (decodeWord x (encode (.fcvtWS rd rs1 rm))).toOption = some (.fcvtWS rd rs1 rm) ∧
      (decodeWord x (encode (.fcvtWUS rd rs1 rm))).toOption = some (.fcvtWUS rd rs1 rm) ∧
      (decodeWord x (encode (.fcvtSW rd rs1 rm))).toOption = some (.fcvtSW rd rs1 rm) ∧
      (decodeWord x (encode (.fcvtSWU rd rs1 rm))).toOption = some (.fcvtSWU rd rs1 rm) ∧
      (decodeWord x (encode (.fmaddD rd rs1 rs2 rs3 rm))).toOption = some (.fmaddD rd rs1 rs2 rs3 rm) ∧
      (decodeWord x (encode (.fmsubD rd rs1 rs2 rs3 rm))).toOption = some (.fmsubD rd rs1 rs2 rs3 rm) ∧
      (decodeWord x (encode (.fnmsubD rd rs1 rs2 rs3 rm))).toOption = some (.fnmsubD rd rs1 rs2 rs3 rm) ∧
      (decodeWord x (encode (.fnmaddD rd rs1 rs2 rs3 rm))).toOption = some (.fnmaddD rd rs1 rs2 rs3 rm) ∧
      (decodeWord x (encode (.faddD rd rs1 rs2 rm))).toOption = some (.faddD rd rs1 rs2 rm) ∧
      (decodeWord x (encode (.fsubD rd rs1 rs2 rm))).toOption = some (.fsubD rd rs1 rs2 rm) ∧
      (decodeWord x (encode (.fmulD rd rs1 rs2 rm))).toOption = some (.fmulD rd rs1 rs2 rm) ∧
      (decodeWord x (encode (.fdivD rd rs1 rs2 rm))).toOption = some (.fdivD rd rs1 rs2 rm) ∧
      (decodeWord x (encode (.fsqrtD rd rs1 rm))).toOption = some (.fsqrtD rd rs1 rm) ∧
      (decodeWord x (encode (.fcvtSD rd rs1 rm))).toOption = some (.fcvtSD rd rs1 rm) ∧
      (decodeWord x (encode (.fcvtDS rd rs1 rm))).toOption = some (.fcvtDS rd rs1 rm) ∧
      (decodeWord x (encode (.fcvtWD rd rs1 rm))).toOption = some (.fcvtWD rd rs1 rm) ∧
      (decodeWord x (encode (.fcvtWUD rd rs1 rm))).toOption = some (.fcvtWUD rd rs1 rm) ∧
      (decodeWord x (encode (.fcvtDW rd rs1 rm))).toOption = some (.fcvtDW rd rs1 rm) ∧
      (decodeWord x (encode (.fcvtDWU rd rs1 rm))).toOption = some (.fcvtDWU rd rs1 rm))) ∧
  (∀ (x : XLen) (rd rs1 : Reg) (rm : BitVec 3), x = .rv64 → rm = 0b101 ∨ rm = 0b110 →
    (decodeWord x (encode (.fcvtLS rd rs1 rm))).toOption = some (.fcvtLS rd rs1 rm) ∧
    (decodeWord x (encode (.fcvtLUS rd rs1 rm))).toOption = some (.fcvtLUS rd rs1 rm) ∧
    (decodeWord x (encode (.fcvtSL rd rs1 rm))).toOption = some (.fcvtSL rd rs1 rm) ∧
    (decodeWord x (encode (.fcvtSLU rd rs1 rm))).toOption = some (.fcvtSLU rd rs1 rm) ∧
    (decodeWord x (encode (.fcvtLD rd rs1 rm))).toOption = some (.fcvtLD rd rs1 rm) ∧
    (decodeWord x (encode (.fcvtLUD rd rs1 rm))).toOption = some (.fcvtLUD rd rs1 rm) ∧
    (decodeWord x (encode (.fcvtDL rd rs1 rm))).toOption = some (.fcvtDL rd rs1 rm) ∧
    (decodeWord x (encode (.fcvtDLU rd rs1 rm))).toOption = some (.fcvtDLU rd rs1 rm)) ∧
  (∀ (x : XLen), x = .rv32 → (∀ (rs1 : Reg) (shamt : BitVec 6), fitsFive shamt = true →
      (decodeWord x (encode (.slli32 0 rs1 shamt))).toOption = some (.slli32 0 rs1 shamt) ∧
      (decodeWord x (encode (.srli32 0 rs1 shamt))).toOption = some (.srli32 0 rs1 shamt) ∧
      (decodeWord x (encode (.srai32 0 rs1 shamt))).toOption = some (.srai32 0 rs1 shamt)) ∧
    (∀ shamt, fitsFive shamt = true → (decodeWord x (encode (.cSlli32 0 shamt))).toOption = some (.cSlli32 0 shamt)) ∧ (∀ rd : Reg, (decodeWord x (encode (.cSlli32 rd 0))).toOption = some (.cSlli32 rd 0)) ∧ (∀ rd, isPrime rd = true → (decodeWord x (encode (.cSrli32 rd 0))).toOption = some (.cSrli32 rd 0) ∧ (decodeWord x (encode (.cSrai32 rd 0))).toOption = some (.cSrai32 rd 0))) ∧
  (∀ (x : XLen), x = .rv64 → (∀ (rs1 : Reg) (shamt : BitVec 6),
      (decodeWord x (encode (.slli64 0 rs1 shamt))).toOption = some (.slli64 0 rs1 shamt) ∧
      (decodeWord x (encode (.srli64 0 rs1 shamt))).toOption = some (.srli64 0 rs1 shamt) ∧
      (decodeWord x (encode (.srai64 0 rs1 shamt))).toOption = some (.srai64 0 rs1 shamt)) ∧
    (∀ shamt, (decodeWord x (encode (.cSlli64 0 shamt))).toOption = some (.cSlli64 0 shamt)) ∧ (∀ rd : Reg, (decodeWord x (encode (.cSlli64 rd 0))).toOption = some (.cSlli64 rd 0)) ∧ (∀ rd, isPrime rd = true → (decodeWord x (encode (.cSrli64 rd 0))).toOption = some (.cSrli64 rd 0) ∧ (decodeWord x (encode (.cSrai64 rd 0))).toOption = some (.cSrai64 rd 0)) ∧
    (∀ imm, fitsZext 9 imm = true → lowZero 3 imm = true → (decodeWord x (encode (.cLdsp 0 imm))).toOption = some (.cLdsp 0 imm)) ∧
    (∀ imm, fitsSext 6 imm = true → (decodeWord x (encode (.cAddiw 0 imm))).toOption = some (.cAddiw 0 imm)))

/-- Targets (R161, R162) and the walk (R155), on the consumer's side of the block. That a tail of one or three bytes is filled up with zeros is
the model's choice (log 11). -/
def Obligations.BranchTargetIsSumModuloWidth : Prop :=
  (∀ (x : XLen) (a : Nat) (imm : Word), branchTarget x a imm < 2 ^ x.bits ∧
    ((branchTarget x a imm : Int) - (a + imm.toInt)) % (2 ^ x.bits : Nat) = 0 ∧
    (a % 2 = 0 → imm.toInt % 2 = 0 → branchTarget x a imm % 2 = 0)) ∧
  (∀ (lk : Lookup) (x : XLen) (names : List String) (rom : List Entry) (fuel a : Nat) (b : Byte) (bytes : List Byte),
    let w := streamWord (b :: bytes)
    let len := if w.extractLsb 1 0 = 0b11#2 then 4 else 2
    walkStream lk x names rom (fuel + 1) a (b :: bytes) =
      recordOf lk x names a (decodeSlot rom true w) :: walkStream lk x names rom fuel (a + len) ((b :: bytes).drop len))

/-- Elaboration (R168, R6, R140, R182). That a width other than 32, 64 and 128 is refused whatever modules are given is the model's choice
(log 13). -/
def Obligations.ElaborationOutcomes : Prop :=
  (∀ (n : Nat) (x : XLen) (ms : List CatalogModule), xlenOfWidth n = some x →
    (∀ c, build ms = .ok c → ∃ s, elaborate n (some ms) = .next s ∧ s.xlen = x ∧ s.rom = c.entries ∧ s.extSet = c.extSet) ∧
    (∀ e, build ms = .error e → elaborate n (some ms) = .fault (.malformedDefinition e))) ∧
  (∀ (n : Nat) (x : XLen), n = 32 ∧ x = .rv32 ∨ n = 64 ∧ x = .rv64 →
    ∃ s, elaborate n none = .next s ∧ s.xlen = x ∧ s.rom = referenceRom x ∧ s.extSet = referenceExtSet ∧
      ∀ p : Ports, p.rst = true → ∃ t, stepWith p s = .next t ∧ t.s1 = Stage1.reset ∧ t.out = Stage2.reset ∧
        t.rom = referenceRom x) ∧
  elaborate 128 none = .refused (.noReferenceCatalog 128) ∧
  (∀ (n : Nat) (given : Option (List CatalogModule)), n ≠ 32 → n ≠ 64 → n ≠ 128 →
    elaborate n given = .refused (.noReferenceCatalog n))

/-- The ROM word (R59) and IDX_W (R8). -/
def Obligations.RomWordAndSizes : Prop :=
  (∀ e : Entry, (packEntry e).extractLsb 70 65 = e.fmt ∧ (packEntry e).getLsbD 64 = e.w16 ∧
    (packEntry e).extractLsb 63 32 = e.mask ∧ (packEntry e).extractLsb 31 0 = e.value ∧ unpackEntry (packEntry e) = e) ∧
  (∀ n : Nat, idxWidth n = max 1 (Nat.clog 2 (max n 2))) ∧
  idxWidth (referenceRom .rv32).length = 8 ∧ idxWidth (referenceRom .rv64).length = 8 ∧
  (∀ (rom : List Entry) (w : Word), matchIndex rom w < 2 ^ idxWidth rom.length) ∧
  (∀ (s t : State), s.Inv → step s = .next t →
    t.s1.index < 2 ^ idxWidth t.rom.length ∧ t.out.index < 2 ^ idxWidth t.rom.length)

/-- The extension set (R22, R78). -/
def Obligations.ExtensionSetBits : Prop :=
  (∀ (ms : List CatalogModule) (k : Nat), k ≤ 25 →
    ((extensionSet ms).getLsbD k = true ↔ ∃ m ∈ ms, m.ext = String.singleton (Char.ofNat (65 + k)))) ∧
  (∀ ms : List CatalogModule,
    ((extensionSet ms).getLsbD 26 = true ↔ ∃ m ∈ ms, m.ext = "Zicsr") ∧
    ((extensionSet ms).getLsbD 27 = true ↔ ∃ m ∈ ms, m.ext = "Zifencei") ∧
    ((extensionSet ms).getLsbD 28 = true ↔ ∃ m ∈ ms, m.ext = "Priv") ∧
    (extensionSet ms).extractLsb 31 29 = 0) ∧
  (∀ x : XLen, extensionSet (referenceModules x) = 0x1C00112D) ∧ State.reset.extSet = 0x1C00112D ∧
  (∀ s t : State, step s = .next t → t.extSet = s.extSet)

/-- Compressed register fields (R116), combined and implicit operands (R117). -/
def Obligations.CompressedRegisterFields : Prop :=
  (∀ x : BitVec 3, (rp x).toNat = 8 + x.toNat ∧ 8 ≤ (rp x).toNat ∧ (rp x).toNat ≤ 15) ∧
  (∀ w : Word,
    (fieldsOf 42 w).rd = rp (w.extractLsb 4 2) ∧
    (∀ c ∈ ([43, 44] : List Code), (fieldsOf c w).rd = rp (w.extractLsb 4 2) ∧ (fieldsOf c w).rs1 = rp (w.extractLsb 9 7)) ∧
    (∀ c ∈ ([45, 46] : List Code), (fieldsOf c w).rs2 = rp (w.extractLsb 4 2) ∧ (fieldsOf c w).rs1 = rp (w.extractLsb 9 7)) ∧
    (fieldsOf 47 w).rd = rp (w.extractLsb 9 7) ∧ (fieldsOf 47 w).rs2 = rp (w.extractLsb 4 2) ∧
    (fieldsOf 48 w).rs1 = rp (w.extractLsb 9 7) ∧ (fieldsOf 49 w).rd = rp (w.extractLsb 9 7) ∧
    (fieldsOf 50 w).rd = rp (w.extractLsb 9 7)) ∧
  (∀ c ∈ ([32, 34, 37, 47, 49, 50] : List Code), (fvalidOf c).getLsbD 0 = true ∧ (fvalidOf c).getLsbD 1 = false ∧
    ∀ w, (fieldsOf c w).rs1 = 0) ∧
  (∀ c ∈ ([42, 38, 39, 40, 41] : List Code), (fvalidOf c).getLsbD 1 = false ∧ ∀ w, (fieldsOf c w).rs1 = 0) ∧
  (∀ c ∈ ([36, 51] : List Code), (fvalidOf c).getLsbD 0 = false ∧ (fvalidOf c).getLsbD 1 = false ∧
    ∀ w, (fieldsOf c w).rd = 0 ∧ (fieldsOf c w).rs1 = 0) ∧
  (fvalidOf 48).getLsbD 2 = false ∧ (∀ w, (fieldsOf 48 w).rs2 = 0) ∧
  (fvalidOf 33).getLsbD 0 = false ∧ (∀ w, (fieldsOf 33 w).rd = 0)

/-- Tag NONE: the eight entries without operands complete, and every field is 0 (R98). -/
def Obligations.NoOperandTagCompletes : Prop :=
  (∀ w : Word, let F := fieldsOf 0 w;
    fvalidOf 0 = 0x000 ∧
    F = {}) ∧
  (let f : Fields := {};
    InBoth .ecall 38 35 0x00000073 0xFFFFFFFF true 0 0x000 f ∧
    InBoth .ebreak 39 36 0x00100073 0xFFFFFFFF true 0 0x000 f ∧
    InBoth .fenceI 40 52 0x0000100F 0xFFFFFFFF true 0 0x000 f ∧
    InBoth .sret 118 156 0x10200073 0xFFFFFFFF true 0 0x000 f ∧
    InBoth .mret 119 157 0x30200073 0xFFFFFFFF true 0 0x000 f ∧
    InBoth .wfi 120 158 0x10500073 0xFFFFFFFF true 0 0x000 f ∧
    InBoth .cNop 129 167 0x0001 0xFFFF false 0 0x000 f ∧
    InBoth .cEbreak 149 189 0x9002 0xFFFF false 0 0x000 f) ∧
  WordIs .rv32 0x00000073 38 .ecall

/-- Tag R: every register-register entry completes with rd, rs1, rs2 (R99). -/
def Obligations.RegisterTagCompletes : Prop :=
  (∀ w : Word, let F := fieldsOf 1 w;
    fvalidOf 1 = 0x007 ∧
    F = { rd := w.extractLsb 11 7, rs1 := w.extractLsb 19 15, rs2 := w.extractLsb 24 20 }) ∧
  (∀ (rd rs1 rs2 : Reg), let f : Fields := { rd := rd, rs1 := rs1, rs2 := rs2 };
    InBoth (.add rd rs1 rs2) 27 24 0x00000033 0xFE00707F true 1 0x007 f ∧
    InBoth (.sub rd rs1 rs2) 28 25 0x40000033 0xFE00707F true 1 0x007 f ∧
    InBoth (.sll rd rs1 rs2) 29 26 0x00001033 0xFE00707F true 1 0x007 f ∧
    InBoth (.slt rd rs1 rs2) 30 27 0x00002033 0xFE00707F true 1 0x007 f ∧
    InBoth (.sltu rd rs1 rs2) 31 28 0x00003033 0xFE00707F true 1 0x007 f ∧
    InBoth (.xor rd rs1 rs2) 32 29 0x00004033 0xFE00707F true 1 0x007 f ∧
    InBoth (.srl rd rs1 rs2) 33 30 0x00005033 0xFE00707F true 1 0x007 f ∧
    InBoth (.sra rd rs1 rs2) 34 31 0x40005033 0xFE00707F true 1 0x007 f ∧
    InBoth (.or rd rs1 rs2) 35 32 0x00006033 0xFE00707F true 1 0x007 f ∧
    InBoth (.and rd rs1 rs2) 36 33 0x00007033 0xFE00707F true 1 0x007 f ∧
    In64 (.addw rd rs1 rs2) 47 0x0000003B 0xFE00707F true 1 0x007 f ∧
    In64 (.subw rd rs1 rs2) 48 0x4000003B 0xFE00707F true 1 0x007 f ∧
    In64 (.sllw rd rs1 rs2) 49 0x0000103B 0xFE00707F true 1 0x007 f ∧
    In64 (.srlw rd rs1 rs2) 50 0x0000503B 0xFE00707F true 1 0x007 f ∧
    In64 (.sraw rd rs1 rs2) 51 0x4000503B 0xFE00707F true 1 0x007 f ∧
    InBoth (.mul rd rs1 rs2) 47 59 0x02000033 0xFE00707F true 1 0x007 f ∧
    InBoth (.mulh rd rs1 rs2) 48 60 0x02001033 0xFE00707F true 1 0x007 f ∧
    InBoth (.mulhsu rd rs1 rs2) 49 61 0x02002033 0xFE00707F true 1 0x007 f ∧
    InBoth (.mulhu rd rs1 rs2) 50 62 0x02003033 0xFE00707F true 1 0x007 f ∧
    InBoth (.div rd rs1 rs2) 51 63 0x02004033 0xFE00707F true 1 0x007 f ∧
    InBoth (.divu rd rs1 rs2) 52 64 0x02005033 0xFE00707F true 1 0x007 f ∧
    InBoth (.rem rd rs1 rs2) 53 65 0x02006033 0xFE00707F true 1 0x007 f ∧
    InBoth (.remu rd rs1 rs2) 54 66 0x02007033 0xFE00707F true 1 0x007 f ∧
    In64 (.mulw rd rs1 rs2) 67 0x0200003B 0xFE00707F true 1 0x007 f ∧
    In64 (.divw rd rs1 rs2) 68 0x0200403B 0xFE00707F true 1 0x007 f ∧
    In64 (.divuw rd rs1 rs2) 69 0x0200503B 0xFE00707F true 1 0x007 f ∧
    In64 (.remw rd rs1 rs2) 70 0x0200603B 0xFE00707F true 1 0x007 f ∧
    In64 (.remuw rd rs1 rs2) 71 0x0200703B 0xFE00707F true 1 0x007 f ∧
    InBoth (.fsgnjS rd rs1 rs2) 77 105 0x20000053 0xFE00707F true 1 0x007 f ∧
    InBoth (.fsgnjnS rd rs1 rs2) 78 106 0x20001053 0xFE00707F true 1 0x007 f ∧
    InBoth (.fsgnjxS rd rs1 rs2) 79 107 0x20002053 0xFE00707F true 1 0x007 f ∧
    InBoth (.fminS rd rs1 rs2) 80 108 0x28000053 0xFE00707F true 1 0x007 f ∧
    InBoth (.fmaxS rd rs1 rs2) 81 109 0x28001053 0xFE00707F true 1 0x007 f ∧
    InBoth (.feqS rd rs1 rs2) 82 110 0xA0002053 0xFE00707F true 1 0x007 f ∧
    InBoth (.fltS rd rs1 rs2) 83 111 0xA0001053 0xFE00707F true 1 0x007 f ∧
    InBoth (.fleS rd rs1 rs2) 84 112 0xA0000053 0xFE00707F true 1 0x007 f ∧
    InBoth (.fsgnjD rd rs1 rs2) 103 135 0x22000053 0xFE00707F true 1 0x007 f ∧
    InBoth (.fsgnjnD rd rs1 rs2) 104 136 0x22001053 0xFE00707F true 1 0x007 f ∧
    InBoth (.fsgnjxD rd rs1 rs2) 105 137 0x22002053 0xFE00707F true 1 0x007 f ∧
    InBoth (.fminD rd rs1 rs2) 106 138 0x2A000053 0xFE00707F true 1 0x007 f ∧
    InBoth (.fmaxD rd rs1 rs2) 107 139 0x2A001053 0xFE00707F true 1 0x007 f ∧
    InBoth (.feqD rd rs1 rs2) 110 142 0xA2002053 0xFE00707F true 1 0x007 f ∧
    InBoth (.fltD rd rs1 rs2) 111 143 0xA2001053 0xFE00707F true 1 0x007 f ∧
    InBoth (.fleD rd rs1 rs2) 112 144 0xA2000053 0xFE00707F true 1 0x007 f) ∧
  WordIs .rv32 0x003100B3 27 (.add 1 2 3) ∧
  WordIs .rv32 0x406002B3 28 (.sub 5 0 6)

/-- Tags R2 and R_S: FCLASS, FMV and SFENCE.VMA complete with their two registers (R100, R101). -/
def Obligations.OneSourceAndNoDestTagsComplete : Prop :=
  (∀ w : Word, let F := fieldsOf 2 w;
    fvalidOf 2 = 0x003 ∧
    F = { rd := w.extractLsb 11 7, rs1 := w.extractLsb 19 15 } ∧
    F.rs2 = 0) ∧
  (∀ (rd rs1 : Reg), let f : Fields := { rd := rd, rs1 := rs1 };
    InBoth (.fclassS rd rs1) 85 113 0xE0001053 0xFFF0707F true 2 0x003 f ∧
    InBoth (.fmvXW rd rs1) 90 118 0xE0000053 0xFFF0707F true 2 0x003 f ∧
    InBoth (.fmvWX rd rs1) 91 119 0xF0000053 0xFFF0707F true 2 0x003 f ∧
    InBoth (.fclassD rd rs1) 113 145 0xE2001053 0xFFF0707F true 2 0x003 f ∧
    In64 (.fmvXD rd rs1) 152 0xE2000053 0xFFF0707F true 2 0x003 f ∧
    In64 (.fmvDX rd rs1) 155 0xF2000053 0xFFF0707F true 2 0x003 f) ∧
  WordIs .rv32 0xE0058553 90 (.fmvXW 10 11) ∧
  (∀ w : Word, let F := fieldsOf 3 w;
    fvalidOf 3 = 0x006 ∧
    F = { rs1 := w.extractLsb 19 15, rs2 := w.extractLsb 24 20 } ∧
    F.rd = 0) ∧
  (∀ (rs1 rs2 : Reg), let f : Fields := { rs1 := rs1, rs2 := rs2 };
    InBoth (.sfenceVma rs1 rs2) 121 159 0x12000073 0xFE007FFF true 3 0x006 f) ∧
  WordIs .rv32 0x12208073 121 (.sfenceVma 1 2)

/-- Tag R_RM: the two-source entries with a rounding mode complete (R102). -/
def Obligations.RoundingTagCompletes : Prop :=
  (∀ w : Word, let F := fieldsOf 4 w;
    fvalidOf 4 = 0x087 ∧
    F = { rd := w.extractLsb 11 7, rs1 := w.extractLsb 19 15, rs2 := w.extractLsb 24 20, rm := w.extractLsb 14 12 }) ∧
  (∀ (rd rs1 rs2 : Reg) (rm : BitVec 3), let f : Fields := { rd := rd, rs1 := rs1, rs2 := rs2, rm := rm };
    InBoth (.faddS rd rs1 rs2 rm) 72 100 0x00000053 0xFE00007F true 4 0x087 f ∧
    InBoth (.fsubS rd rs1 rs2 rm) 73 101 0x08000053 0xFE00007F true 4 0x087 f ∧
    InBoth (.fmulS rd rs1 rs2 rm) 74 102 0x10000053 0xFE00007F true 4 0x087 f ∧
    InBoth (.fdivS rd rs1 rs2 rm) 75 103 0x18000053 0xFE00007F true 4 0x087 f ∧
    InBoth (.faddD rd rs1 rs2 rm) 98 130 0x02000053 0xFE00007F true 4 0x087 f ∧
    InBoth (.fsubD rd rs1 rs2 rm) 99 131 0x0A000053 0xFE00007F true 4 0x087 f ∧
    InBoth (.fmulD rd rs1 rs2 rm) 100 132 0x12000053 0xFE00007F true 4 0x087 f ∧
    InBoth (.fdivD rd rs1 rs2 rm) 101 133 0x1A000053 0xFE00007F true 4 0x087 f) ∧
  WordIs .rv32 0x023170D3 98 (.faddD 1 2 3 7)

/-- Tag R2_RM: FSQRT and FCVT complete with rd, rs1, rm (R103). -/
def Obligations.OneSourceRoundingTagCompletes : Prop :=
  (∀ w : Word, let F := fieldsOf 5 w;
    fvalidOf 5 = 0x083 ∧
    F = { rd := w.extractLsb 11 7, rs1 := w.extractLsb 19 15, rm := w.extractLsb 14 12 } ∧
    F.rs2 = 0) ∧
  (∀ (rd rs1 : Reg) (rm : BitVec 3), let f : Fields := { rd := rd, rs1 := rs1, rm := rm };
    InBoth (.fsqrtS rd rs1 rm) 76 104 0x58000053 0xFFF0007F true 5 0x083 f ∧
    InBoth (.fcvtWS rd rs1 rm) 86 114 0xC0000053 0xFFF0007F true 5 0x083 f ∧
    InBoth (.fcvtWUS rd rs1 rm) 87 115 0xC0100053 0xFFF0007F true 5 0x083 f ∧
    InBoth (.fcvtSW rd rs1 rm) 88 116 0xD0000053 0xFFF0007F true 5 0x083 f ∧
    InBoth (.fcvtSWU rd rs1 rm) 89 117 0xD0100053 0xFFF0007F true 5 0x083 f ∧
    In64 (.fcvtLS rd rs1 rm) 120 0xC0200053 0xFFF0007F true 5 0x083 f ∧
    In64 (.fcvtLUS rd rs1 rm) 121 0xC0300053 0xFFF0007F true 5 0x083 f ∧
    In64 (.fcvtSL rd rs1 rm) 122 0xD0200053 0xFFF0007F true 5 0x083 f ∧
    In64 (.fcvtSLU rd rs1 rm) 123 0xD0300053 0xFFF0007F true 5 0x083 f ∧
    InBoth (.fsqrtD rd rs1 rm) 102 134 0x5A000053 0xFFF0007F true 5 0x083 f ∧
    InBoth (.fcvtSD rd rs1 rm) 108 140 0x40100053 0xFFF0007F true 5 0x083 f ∧
    InBoth (.fcvtDS rd rs1 rm) 109 141 0x42000053 0xFFF0007F true 5 0x083 f ∧
    InBoth (.fcvtWD rd rs1 rm) 114 146 0xC2000053 0xFFF0007F true 5 0x083 f ∧
    InBoth (.fcvtWUD rd rs1 rm) 115 147 0xC2100053 0xFFF0007F true 5 0x083 f ∧
    InBoth (.fcvtDW rd rs1 rm) 116 148 0xD2000053 0xFFF0007F true 5 0x083 f ∧
    InBoth (.fcvtDWU rd rs1 rm) 117 149 0xD2100053 0xFFF0007F true 5 0x083 f ∧
    In64 (.fcvtLD rd rs1 rm) 150 0xC2200053 0xFFF0007F true 5 0x083 f ∧
    In64 (.fcvtLUD rd rs1 rm) 151 0xC2300053 0xFFF0007F true 5 0x083 f ∧
    In64 (.fcvtDL rd rs1 rm) 153 0xD2200053 0xFFF0007F true 5 0x083 f ∧
    In64 (.fcvtDLU rd rs1 rm) 154 0xD2300053 0xFFF0007F true 5 0x083 f) ∧
  WordIs .rv32 0xC0059553 86 (.fcvtWS 10 11 1)

/-- Tag R4_RM: the fused multiply-add entries complete with four registers and rm (R104). -/
def Obligations.FusedTagCompletes : Prop :=
  (∀ w : Word, let F := fieldsOf 6 w;
    fvalidOf 6 = 0x08F ∧
    F = { rd := w.extractLsb 11 7, rs1 := w.extractLsb 19 15, rs2 := w.extractLsb 24 20, rs3 := w.extractLsb 31 27,
          rm := w.extractLsb 14 12 }) ∧
  (∀ (rd rs1 rs2 rs3 : Reg) (rm : BitVec 3), let f : Fields := { rd := rd, rs1 := rs1, rs2 := rs2, rs3 := rs3, rm := rm };
    InBoth (.fmaddS rd rs1 rs2 rs3 rm) 68 96 0x00000043 0x0600007F true 6 0x08F f ∧
    InBoth (.fmsubS rd rs1 rs2 rs3 rm) 69 97 0x00000047 0x0600007F true 6 0x08F f ∧
    InBoth (.fnmsubS rd rs1 rs2 rs3 rm) 70 98 0x0000004B 0x0600007F true 6 0x08F f ∧
    InBoth (.fnmaddS rd rs1 rs2 rs3 rm) 71 99 0x0000004F 0x0600007F true 6 0x08F f ∧
    InBoth (.fmaddD rd rs1 rs2 rs3 rm) 94 126 0x02000043 0x0600007F true 6 0x08F f ∧
    InBoth (.fmsubD rd rs1 rs2 rs3 rm) 95 127 0x02000047 0x0600007F true 6 0x08F f ∧
    InBoth (.fnmsubD rd rs1 rs2 rs3 rm) 96 128 0x0200004B 0x0600007F true 6 0x08F f ∧
    InBoth (.fnmaddD rd rs1 rs2 rs3 rm) 97 129 0x0200004F 0x0600007F true 6 0x08F f) ∧
  WordIs .rv32 0x203100C3 68 (.fmaddS 1 2 3 4 0) ∧
  WordIs .rv32 0x203170C3 68 (.fmaddS 1 2 3 4 7)

/-- Tag R_AMO: SC and the AMO entries complete with aq and rl (R105). -/
def Obligations.AtomicTagCompletes : Prop :=
  (∀ w : Word, let F := fieldsOf 7 w;
    fvalidOf 7 = 0x307 ∧
    F = { rd := w.extractLsb 11 7, rs1 := w.extractLsb 19 15, rs2 := w.extractLsb 24 20, aq := w.getLsbD 26, rl := w.getLsbD 25 }) ∧
  (∀ (rd rs1 rs2 : Reg) (aq rl : Bool), let f : Fields := { rd := rd, rs1 := rs1, rs2 := rs2, aq := aq, rl := rl };
    InBoth (.scW rd rs1 rs2 aq rl) 56 73 0x1800202F 0xF800707F true 7 0x307 f ∧
    InBoth (.amoswapW rd rs1 rs2 aq rl) 57 74 0x0800202F 0xF800707F true 7 0x307 f ∧
    InBoth (.amoaddW rd rs1 rs2 aq rl) 58 75 0x0000202F 0xF800707F true 7 0x307 f ∧
    InBoth (.amoxorW rd rs1 rs2 aq rl) 59 76 0x2000202F 0xF800707F true 7 0x307 f ∧
    InBoth (.amoandW rd rs1 rs2 aq rl) 60 77 0x6000202F 0xF800707F true 7 0x307 f ∧
    InBoth (.amoorW rd rs1 rs2 aq rl) 61 78 0x4000202F 0xF800707F true 7 0x307 f ∧
    InBoth (.amominW rd rs1 rs2 aq rl) 62 79 0x8000202F 0xF800707F true 7 0x307 f ∧
    InBoth (.amomaxW rd rs1 rs2 aq rl) 63 80 0xA000202F 0xF800707F true 7 0x307 f ∧
    InBoth (.amominuW rd rs1 rs2 aq rl) 64 81 0xC000202F 0xF800707F true 7 0x307 f ∧
    InBoth (.amomaxuW rd rs1 rs2 aq rl) 65 82 0xE000202F 0xF800707F true 7 0x307 f ∧
    In64 (.scD rd rs1 rs2 aq rl) 84 0x1800302F 0xF800707F true 7 0x307 f ∧
    In64 (.amoswapD rd rs1 rs2 aq rl) 85 0x0800302F 0xF800707F true 7 0x307 f ∧
    In64 (.amoaddD rd rs1 rs2 aq rl) 86 0x0000302F 0xF800707F true 7 0x307 f ∧
    In64 (.amoxorD rd rs1 rs2 aq rl) 87 0x2000302F 0xF800707F true 7 0x307 f ∧
    In64 (.amoandD rd rs1 rs2 aq rl) 88 0x6000302F 0xF800707F true 7 0x307 f ∧
    In64 (.amoorD rd rs1 rs2 aq rl) 89 0x4000302F 0xF800707F true 7 0x307 f ∧
    In64 (.amominD rd rs1 rs2 aq rl) 90 0x8000302F 0xF800707F true 7 0x307 f ∧
    In64 (.amomaxD rd rs1 rs2 aq rl) 91 0xA000302F 0xF800707F true 7 0x307 f ∧
    In64 (.amominuD rd rs1 rs2 aq rl) 92 0xC000302F 0xF800707F true 7 0x307 f ∧
    In64 (.amomaxuD rd rs1 rs2 aq rl) 93 0xE000302F 0xF800707F true 7 0x307 f) ∧
  WordIs .rv32 0x0E3120AF 57 (.amoswapW 1 2 3 true true)

/-- Tag R_LR: LR completes, and a non-zero rs2 field is NoMatch (R106). -/
def Obligations.LoadReservedTagCompletes : Prop :=
  (∀ w : Word, let F := fieldsOf 8 w;
    fvalidOf 8 = 0x303 ∧
    F = { rd := w.extractLsb 11 7, rs1 := w.extractLsb 19 15, aq := w.getLsbD 26, rl := w.getLsbD 25 }) ∧
  (∀ (rd rs1 : Reg) (aq rl : Bool), let f : Fields := { rd := rd, rs1 := rs1, aq := aq, rl := rl };
    InBoth (.lrW rd rs1 aq rl) 55 72 0x1000202F 0xF9F0707F true 8 0x303 f ∧
    In64 (.lrD rd rs1 aq rl) 83 0x1000302F 0xF9F0707F true 8 0x303 f) ∧
  WordIs .rv32 0x140120AF 55 (.lrW 1 2 true false) ∧
  (∀ (x : XLen) (w : Word), w &&& 0xF800707F = 0x1000202F ∨ w &&& 0xF800707F = 0x1000302F →
    w.extractLsb 24 20 ≠ 0#5 → WordIsNoMatch x w)

/-- Tag I: every register-immediate entry completes with a 12-bit signed immediate (R107). -/
def Obligations.ImmediateTagCompletes : Prop :=
  (∀ w : Word, let F := fieldsOf 9 w;
    fvalidOf 9 = 0x013 ∧
    F = { rd := w.extractLsb 11 7, rs1 := w.extractLsb 19 15, imm := sext 12 (w.extractLsb 31 20) } ∧
    -2048 ≤ F.imm.toInt ∧ F.imm.toInt ≤ 2047) ∧
  (∀ (rd rs1 : Reg) (imm : Word), fitsSext 12 imm = true → let f : Fields := { rd := rd, rs1 := rs1, imm := imm };
    InBoth (.jalr rd rs1 imm) 3 3 0x00000067 0x0000707F true 9 0x013 f ∧
    InBoth (.lb rd rs1 imm) 10 10 0x00000003 0x0000707F true 9 0x013 f ∧
    InBoth (.lh rd rs1 imm) 11 11 0x00001003 0x0000707F true 9 0x013 f ∧
    InBoth (.lw rd rs1 imm) 12 12 0x00002003 0x0000707F true 9 0x013 f ∧
    InBoth (.lbu rd rs1 imm) 13 13 0x00004003 0x0000707F true 9 0x013 f ∧
    InBoth (.lhu rd rs1 imm) 14 14 0x00005003 0x0000707F true 9 0x013 f ∧
    InBoth (.addi rd rs1 imm) 18 18 0x00000013 0x0000707F true 9 0x013 f ∧
    InBoth (.slti rd rs1 imm) 19 19 0x00002013 0x0000707F true 9 0x013 f ∧
    InBoth (.sltiu rd rs1 imm) 20 20 0x00003013 0x0000707F true 9 0x013 f ∧
    InBoth (.xori rd rs1 imm) 21 21 0x00004013 0x0000707F true 9 0x013 f ∧
    InBoth (.ori rd rs1 imm) 22 22 0x00006013 0x0000707F true 9 0x013 f ∧
    InBoth (.andi rd rs1 imm) 23 23 0x00007013 0x0000707F true 9 0x013 f ∧
    InBoth (.fence rd rs1 imm) 37 34 0x0000000F 0x0000707F true 9 0x013 f ∧
    In64 (.lwu rd rs1 imm) 40 0x00006003 0x0000707F true 9 0x013 f ∧
    In64 (.ld rd rs1 imm) 41 0x00003003 0x0000707F true 9 0x013 f ∧
    In64 (.addiw rd rs1 imm) 43 0x0000001B 0x0000707F true 9 0x013 f ∧
    InBoth (.flw rd rs1 imm) 66 94 0x00002007 0x0000707F true 9 0x013 f ∧
    InBoth (.fld rd rs1 imm) 92 124 0x00003007 0x0000707F true 9 0x013 f) ∧
  WordIs .rv32 0x8330000F 37 (.fence 0 0 0xFFFFF833) ∧
  WordIs .rv32 0x00000013 18 (.addi 0 0 0) ∧
  WordIs .rv32 0xFFF10093 18 (.addi 1 2 0xFFFFFFFF)

/-- Tags I_SH5 and I_SH6: the shift-immediate entries complete with their shift amount (R108, R109). -/
def Obligations.ShiftTagsComplete : Prop :=
  (∀ w : Word, let F := fieldsOf 10 w;
    fvalidOf 10 = 0x043 ∧
    F = { rd := w.extractLsb 11 7, rs1 := w.extractLsb 19 15, shamt := (w.extractLsb 24 20).setWidth 6 } ∧
    F.shamt.toNat ≤ 31 ∧ F.imm = 0) ∧
  (∀ (rd rs1 : Reg) (shamt : BitVec 6), fitsFive shamt = true → let f : Fields := { rd := rd, rs1 := rs1, shamt := shamt };
    In32 (.slli32 rd rs1 shamt) 24 0x00001013 0xFE00707F true 10 0x043 f ∧
    In32 (.srli32 rd rs1 shamt) 25 0x00005013 0xFE00707F true 10 0x043 f ∧
    In32 (.srai32 rd rs1 shamt) 26 0x40005013 0xFE00707F true 10 0x043 f ∧
    In64 (.slliw rd rs1 shamt) 44 0x0000101B 0xFE00707F true 10 0x043 f ∧
    In64 (.srliw rd rs1 shamt) 45 0x0000501B 0xFE00707F true 10 0x043 f ∧
    In64 (.sraiw rd rs1 shamt) 46 0x4000501B 0xFE00707F true 10 0x043 f) ∧
  WordIs .rv32 0x41F15093 26 (.srai32 1 2 31) ∧
  WordIsNoMatch .rv32 0x02011093 ∧
  (∀ w : Word, w &&& 0xFE00707F = 0x02001013 ∨ w &&& 0xFE00707F = 0x02005013 ∨ w &&& 0xFE00707F = 0x42005013 →
    WordIsNoMatch .rv32 w) ∧
  (∀ w : Word, let F := fieldsOf 11 w;
    fvalidOf 11 = 0x043 ∧
    F = { rd := w.extractLsb 11 7, rs1 := w.extractLsb 19 15, shamt := w.extractLsb 25 20 } ∧
    F.shamt.toNat ≤ 63 ∧ F.imm = 0) ∧
  (∀ (rd rs1 : Reg) (shamt : BitVec 6), let f : Fields := { rd := rd, rs1 := rs1, shamt := shamt };
    In64 (.slli64 rd rs1 shamt) 37 0x00001013 0xFC00707F true 11 0x043 f ∧
    In64 (.srli64 rd rs1 shamt) 38 0x00005013 0xFC00707F true 11 0x043 f ∧
    In64 (.srai64 rd rs1 shamt) 39 0x40005013 0xFC00707F true 11 0x043 f) ∧
  WordIs .rv64 0x43F15093 39 (.srai64 1 2 63) ∧
  WordIs .rv64 0x02011093 37 (.slli64 1 2 32)

/-- Tags I_CSR and I_CSRI: the CSR entries complete with the CSR address (R110, R111). -/
def Obligations.CsrTagsComplete : Prop :=
  (∀ w : Word, let F := fieldsOf 12 w;
    fvalidOf 12 = 0x023 ∧
    F = { rd := w.extractLsb 11 7, rs1 := w.extractLsb 19 15, csr := w.extractLsb 31 20 } ∧
    F.csr.toNat ≤ 4095 ∧ F.imm = 0) ∧
  (∀ (rd rs1 : Reg) (csr : BitVec 12), let f : Fields := { rd := rd, rs1 := rs1, csr := csr };
    InBoth (.csrrw rd rs1 csr) 41 53 0x00001073 0x0000707F true 12 0x023 f ∧
    InBoth (.csrrs rd rs1 csr) 42 54 0x00002073 0x0000707F true 12 0x023 f ∧
    InBoth (.csrrc rd rs1 csr) 43 55 0x00003073 0x0000707F true 12 0x023 f) ∧
  WordIs .rv32 0xFFF022F3 42 (.csrrs 5 0 0xFFF) ∧
  WordIs .rv32 0x123110F3 41 (.csrrw 1 2 0x123) ∧
  (∀ w : Word, let F := fieldsOf 13 w;
    fvalidOf 13 = 0x031 ∧
    F = { rd := w.extractLsb 11 7, imm := zext 5 (w.extractLsb 19 15), csr := w.extractLsb 31 20 } ∧
    0 ≤ F.imm.toInt ∧ F.imm.toInt ≤ 31 ∧ F.rs1 = 0) ∧
  (∀ (rd : Reg) (imm : Word) (csr : BitVec 12), fitsZext 5 imm = true → let f : Fields := { rd := rd, imm := imm, csr := csr };
    InBoth (.csrrwi rd imm csr) 44 56 0x00005073 0x0000707F true 13 0x031 f ∧
    InBoth (.csrrsi rd imm csr) 45 57 0x00006073 0x0000707F true 13 0x031 f ∧
    InBoth (.csrrci rd imm csr) 46 58 0x00007073 0x0000707F true 13 0x031 f) ∧
  WordIs .rv32 0x002FD073 44 (.csrrwi 0 31 2)

/-- Tag S: the store entries complete with rs1, rs2 and a 12-bit signed immediate (R112). -/
def Obligations.StoreTagCompletes : Prop :=
  (∀ w : Word, let F := fieldsOf 14 w;
    fvalidOf 14 = 0x016 ∧
    F = { rs1 := w.extractLsb 19 15, rs2 := w.extractLsb 24 20, imm := sext 12 (w.extractLsb 31 25 ++ w.extractLsb 11 7) } ∧
    -2048 ≤ F.imm.toInt ∧ F.imm.toInt ≤ 2047 ∧ F.rd = 0) ∧
  (∀ (rs1 rs2 : Reg) (imm : Word), fitsSext 12 imm = true → let f : Fields := { rs1 := rs1, rs2 := rs2, imm := imm };
    InBoth (.sb rs1 rs2 imm) 15 15 0x00000023 0x0000707F true 14 0x016 f ∧
    InBoth (.sh rs1 rs2 imm) 16 16 0x00001023 0x0000707F true 14 0x016 f ∧
    InBoth (.sw rs1 rs2 imm) 17 17 0x00002023 0x0000707F true 14 0x016 f ∧
    In64 (.sd rs1 rs2 imm) 42 0x00003023 0x0000707F true 14 0x016 f ∧
    InBoth (.fsw rs1 rs2 imm) 67 95 0x00002027 0x0000707F true 14 0x016 f ∧
    InBoth (.fsd rs1 rs2 imm) 93 125 0x00003027 0x0000707F true 14 0x016 f) ∧
  WordIs .rv32 0xFE312E23 17 (.sw 2 3 0xFFFFFFFC)

/-- Tag B: the branch entries complete with an even 13-bit signed immediate (R113). -/
def Obligations.BranchTagCompletes : Prop :=
  (∀ w : Word, let F := fieldsOf 15 w;
    fvalidOf 15 = 0x016 ∧
    F = { rs1 := w.extractLsb 19 15, rs2 := w.extractLsb 24 20,
          imm := sext 13 (w.extractLsb 31 31 ++ w.extractLsb 7 7 ++ w.extractLsb 30 25 ++ w.extractLsb 11 8 ++ 0#1) } ∧
    -4096 ≤ F.imm.toInt ∧ F.imm.toInt ≤ 4094 ∧ F.imm.toInt % 2 = 0) ∧
  (∀ (rs1 rs2 : Reg) (imm : Word), fitsSext 13 imm = true → lowZero 1 imm = true → let f : Fields := { rs1 := rs1, rs2 := rs2, imm := imm };
    InBoth (.beq rs1 rs2 imm) 4 4 0x00000063 0x0000707F true 15 0x016 f ∧
    InBoth (.bne rs1 rs2 imm) 5 5 0x00001063 0x0000707F true 15 0x016 f ∧
    InBoth (.blt rs1 rs2 imm) 6 6 0x00004063 0x0000707F true 15 0x016 f ∧
    InBoth (.bge rs1 rs2 imm) 7 7 0x00005063 0x0000707F true 15 0x016 f ∧
    InBoth (.bltu rs1 rs2 imm) 8 8 0x00006063 0x0000707F true 15 0x016 f ∧
    InBoth (.bgeu rs1 rs2 imm) 9 9 0x00007063 0x0000707F true 15 0x016 f) ∧
  WordIs .rv32 0x80000063 4 (.beq 0 0 0xFFFFF000) ∧
  WordIs .rv32 0x7E000FE3 4 (.beq 0 0 0xFFE) ∧
  WordIs .rv32 0xFE001FE3 5 (.bne 0 0 0xFFFFFFFE) ∧
  WordIs .rv32 0x00050463 4 (.beq 10 0 8)

/-- Tags U and J: LUI, AUIPC and JAL complete (R114, R115). -/
def Obligations.UpperAndJumpTagsComplete : Prop :=
  (∀ w : Word, let F := fieldsOf 16 w;
    fvalidOf 16 = 0x011 ∧
    F = { rd := w.extractLsb 11 7, imm := w.extractLsb 31 12 ++ 0#12 } ∧
    F.imm.extractLsb 11 0 = 0#12 ∧ F.imm.msb = w.getLsbD 31) ∧
  (∀ (rd : Reg) (imm : Word), lowZero 12 imm = true → let f : Fields := { rd := rd, imm := imm };
    InBoth (.lui rd imm) 0 0 0x00000037 0x0000007F true 16 0x011 f ∧
    InBoth (.auipc rd imm) 1 1 0x00000017 0x0000007F true 16 0x011 f) ∧
  WordIs .rv32 0xFFFFF0B7 0 (.lui 1 0xFFFFF000) ∧
  WordIs .rv32 0x800000B7 0 (.lui 1 0x80000000) ∧
  (∀ w : Word, let F := fieldsOf 17 w;
    fvalidOf 17 = 0x011 ∧
    F = { rd := w.extractLsb 11 7,
          imm := sext 21 (w.extractLsb 31 31 ++ w.extractLsb 19 12 ++ w.extractLsb 20 20 ++ w.extractLsb 30 21 ++ 0#1) } ∧
    -1048576 ≤ F.imm.toInt ∧ F.imm.toInt ≤ 1048574 ∧ F.imm.toInt % 2 = 0) ∧
  (∀ (rd : Reg) (imm : Word), fitsSext 21 imm = true → lowZero 1 imm = true → let f : Fields := { rd := rd, imm := imm };
    InBoth (.jal rd imm) 2 2 0x0000006F 0x0000007F true 17 0x011 f) ∧
  WordIs .rv32 0x7FFFF06F 2 (.jal 0 0xFFFFE) ∧
  WordIs .rv32 0x8000006F 2 (.jal 0 0xFFF00000) ∧
  WordIs .rv32 0xFFFFF0EF 2 (.jal 1 0xFFFFFFFE)

/-- Tags CR and CR_JR: C.MV, C.ADD, C.JR, C.JALR complete (R118, R119). -/
def Obligations.CompressedRegisterTagsComplete : Prop :=
  (∀ w : Word, let F := fieldsOf 32 w;
    fvalidOf 32 = 0x005 ∧
    F = { rd := w.extractLsb 11 7, rs2 := w.extractLsb 6 2 } ∧
    F.rs1 = 0) ∧
  (∀ (rd rs2 : Reg), rs2 ≠ 0 → let f : Fields := { rd := rd, rs2 := rs2 };
    InBoth (.cMv rd rs2) 151 191 0x8002 0xF003 false 32 0x005 f ∧
    InBoth (.cAdd rd rs2) 153 193 0x9002 0xF003 false 32 0x005 f) ∧
  (∀ rd : Reg, encode (.cMv rd 0) = encode (.cJr rd) ∧ ∀ s, exec (.cMv rd 0) s = exec (.cJr rd) s) ∧
  (∀ rd : Reg, encode (.cAdd rd 0) = encode (.cJalr rd) ∧ ∀ s, exec (.cAdd rd 0) s = exec (.cJalr rd) s) ∧
  WordIs .rv32 0x852E 151 (.cMv 10 11) ∧
  WordIs .rv32 0x952E 153 (.cAdd 10 11) ∧
  (∀ (x : XLen) (w : Word), matchFmt (referenceRom x) w = 32 → w.extractLsb 6 2 ≠ 0#5) ∧
  (∀ w : Word, let F := fieldsOf 33 w;
    fvalidOf 33 = 0x002 ∧
    F = { rs1 := w.extractLsb 11 7 }) ∧
  (∀ (rs1 : Reg), let f : Fields := { rs1 := rs1 };
    InBoth (.cJr rs1) 150 190 0x8002 0xF07F false 33 0x002 f) ∧
  (∀ (rs1 : Reg), rs1 ≠ 0 → let f : Fields := { rs1 := rs1 };
    InBoth (.cJalr rs1) 152 192 0x9002 0xF07F false 33 0x002 f) ∧
  (encode (.cJalr 0) = encode .cEbreak ∧ ∀ s, exec (.cJalr 0) s = exec .cEbreak s) ∧
  WordIs .rv32 0x8082 150 (.cJr 1) ∧
  WordIs .rv32 0x9282 152 (.cJalr 5) ∧
  WordIs .rv32 0x8002 150 (.cJr 0) ∧
  WordIs .rv32 0x9002 149 .cEbreak

/-- Tags CI and CI_LUI: C.ADDI, C.LI, C.ADDIW, C.LUI complete (R120, R121). -/
def Obligations.CompressedImmediateTagsComplete : Prop :=
  (∀ w : Word, let F := fieldsOf 34 w;
    fvalidOf 34 = 0x011 ∧
    F = { rd := w.extractLsb 11 7, imm := sext 6 (w.extractLsb 12 12 ++ w.extractLsb 6 2) } ∧
    -32 ≤ F.imm.toInt ∧ F.imm.toInt ≤ 31 ∧ F.rs1 = 0) ∧
  (∀ (rd : Reg) (imm : Word), fitsSext 6 imm = true → ¬(rd = 0 ∧ imm = 0) → let f : Fields := { rd := rd, imm := imm };
    InBoth (.cAddi rd imm) 130 168 0x0001 0xE003 false 34 0x011 f) ∧
  (∀ (rd : Reg) (imm : Word), fitsSext 6 imm = true → let f : Fields := { rd := rd, imm := imm };
    In64 (.cAddiw rd imm) 169 0x2001 0xE003 false 34 0x011 f ∧
    InBoth (.cLi rd imm) 132 170 0x4001 0xE003 false 34 0x011 f) ∧
  (encode (.cAddi 0 0) = encode .cNop ∧ ∀ s, exec (.cAddi 0 0) s = exec .cNop s) ∧
  WordIs .rv32 0x0001 129 .cNop ∧
  WordIs .rv32 0x0005 130 (.cAddi 0 1) ∧
  WordIs .rv64 0x2001 169 (.cAddiw 0 0) ∧
  WordIs .rv32 0x10FD 130 (.cAddi 1 0xFFFFFFFF) ∧
  WordIs .rv32 0x00FD 130 (.cAddi 1 31) ∧
  WordIs .rv32 0x5501 132 (.cLi 10 0xFFFFFFE0) ∧
  (∀ w : Word, let F := fieldsOf 35 w;
    fvalidOf 35 = 0x011 ∧
    F = { rd := w.extractLsb 11 7, imm := sext 18 (w.extractLsb 12 12 ++ w.extractLsb 6 2 ++ 0#12) } ∧
    F.imm.extractLsb 11 0 = 0#12) ∧
  (∀ (rd : Reg) (imm : Word), fitsSext 18 imm = true → lowZero 12 imm = true → rd ≠ 2 → let f : Fields := { rd := rd, imm := imm };
    InBoth (.cLui rd imm) 134 172 0x6001 0xE003 false 35 0x011 f) ∧
  (∀ imm : Word, fitsSext 18 imm = true → lowZero 12 imm = true →
    let j := sext 10 (imm.extractLsb 17 17 ++ imm.extractLsb 14 13 ++ imm.extractLsb 15 15 ++ imm.extractLsb 12 12 ++ imm.extractLsb 16 16 ++ 0#4);
    encode (.cLui 2 imm) = encode (.cAddi16sp j) ∧ ∀ s, exec (.cLui 2 imm) s = exec (.cAddi16sp j) s) ∧
  WordIs .rv32 0x6081 134 (.cLui 1 0) ∧
  WordIs .rv32 0x70FD 134 (.cLui 1 0xFFFFF000) ∧
  WordIs .rv32 0x6085 134 (.cLui 1 0x1000) ∧
  (∀ (x : XLen) (w : Word), matchFmt (referenceRom x) w = 35 → w.extractLsb 11 7 ≠ 2#5)

/-- Tags CI_ADDI16SP and CI_SH: C.ADDI16SP and C.SLLI complete (R122, R123). -/
def Obligations.CompressedStackAdjustAndShiftComplete : Prop :=
  (∀ w : Word, let F := fieldsOf 36 w;
    fvalidOf 36 = 0x010 ∧
    F = { imm := sext 10 (w.extractLsb 12 12 ++ w.extractLsb 4 3 ++ w.extractLsb 5 5 ++ w.extractLsb 2 2 ++
            w.extractLsb 6 6 ++ 0#4) } ∧
    -512 ≤ F.imm.toInt ∧ F.imm.toInt ≤ 496 ∧ F.imm.toInt % 16 = 0 ∧ F.rd = 0) ∧
  (∀ (imm : Word), fitsSext 10 imm = true → lowZero 4 imm = true → let f : Fields := { imm := imm };
    InBoth (.cAddi16sp imm) 133 171 0x6101 0xEF83 false 36 0x010 f) ∧
  WordIs .rv32 0x6101 133 (.cAddi16sp 0) ∧
  WordIs .rv32 0x717D 133 (.cAddi16sp 0xFFFFFFF0) ∧
  WordIs .rv32 0x617D 133 (.cAddi16sp 496) ∧
  WordIs .rv32 0x7101 133 (.cAddi16sp 0xFFFFFE00) ∧
  WordIs .rv32 0x6105 133 (.cAddi16sp 32) ∧
  (∀ w : Word, let F := fieldsOf 37 w;
    fvalidOf 37 = 0x041 ∧
    F = { rd := w.extractLsb 11 7, shamt := w.extractLsb 12 12 ++ w.extractLsb 6 2 } ∧
    F.rs1 = 0) ∧
  (∀ (rd : Reg) (shamt : BitVec 6), fitsFive shamt = true → let f : Fields := { rd := rd, shamt := shamt };
    In32 (.cSlli32 rd shamt) 145 0x0002 0xF003 false 37 0x041 f) ∧
  (∀ (rd : Reg) (shamt : BitVec 6), let f : Fields := { rd := rd, shamt := shamt };
    In64 (.cSlli64 rd shamt) 185 0x0002 0xE003 false 37 0x041 f) ∧
  WordIsNoMatch .rv32 0x10FE ∧
  WordIs .rv64 0x10FE 185 (.cSlli64 1 63) ∧
  WordIs .rv32 0x00FE 145 (.cSlli32 1 31)

/-- Tags CI_LWSP and CI_LDSP: the stack loads complete (R124, R125). -/
def Obligations.CompressedStackLoadTagsComplete : Prop :=
  (∀ w : Word, let F := fieldsOf 38 w;
    fvalidOf 38 = 0x011 ∧
    F = { rd := w.extractLsb 11 7, imm := zext 8 (w.extractLsb 3 2 ++ w.extractLsb 12 12 ++ w.extractLsb 6 4 ++ 0#2) } ∧
    0 ≤ F.imm.toInt ∧ F.imm.toInt ≤ 252 ∧ F.imm.toInt % 4 = 0 ∧ F.rs1 = 0) ∧
  (∀ (rd : Reg) (imm : Word), fitsZext 8 imm = true → lowZero 2 imm = true → let f : Fields := { rd := rd, imm := imm };
    InBoth (.cLwsp rd imm) 147 187 0x4002 0xE003 false 38 0x011 f ∧
    In32 (.cFlwsp rd imm) 148 0x6002 0xE003 false 38 0x011 f) ∧
  WordIs .rv32 0x4002 147 (.cLwsp 0 0) ∧
  WordIs .rv32 0x50FE 147 (.cLwsp 1 252) ∧
  WordIs .rv32 0x70FE 148 (.cFlwsp 1 252) ∧
  (∀ w : Word, let F := fieldsOf 39 w;
    fvalidOf 39 = 0x011 ∧
    F = { rd := w.extractLsb 11 7, imm := zext 9 (w.extractLsb 4 2 ++ w.extractLsb 12 12 ++ w.extractLsb 6 5 ++ 0#3) } ∧
    0 ≤ F.imm.toInt ∧ F.imm.toInt ≤ 504 ∧ F.imm.toInt % 8 = 0 ∧ F.rs1 = 0) ∧
  (∀ (rd : Reg) (imm : Word), fitsZext 9 imm = true → lowZero 3 imm = true → let f : Fields := { rd := rd, imm := imm };
    InBoth (.cFldsp rd imm) 146 186 0x2002 0xE003 false 39 0x011 f ∧
    In64 (.cLdsp rd imm) 188 0x6002 0xE003 false 39 0x011 f) ∧
  WordIs .rv64 0x6002 188 (.cLdsp 0 0) ∧
  WordIs .rv32 0x30FE 146 (.cFldsp 1 504) ∧
  WordIs .rv64 0x70FE 188 (.cLdsp 1 504)

/-- Tags CSS_SWSP and CSS_SDSP: the stack stores complete (R126, R127). -/
def Obligations.CompressedStackStoreTagsComplete : Prop :=
  (∀ w : Word, let F := fieldsOf 40 w;
    fvalidOf 40 = 0x014 ∧
    F = { rs2 := w.extractLsb 6 2, imm := zext 8 (w.extractLsb 8 7 ++ w.extractLsb 12 9 ++ 0#2) } ∧
    0 ≤ F.imm.toInt ∧ F.imm.toInt ≤ 252 ∧ F.imm.toInt % 4 = 0 ∧ F.rs1 = 0) ∧
  (∀ (rs2 : Reg) (imm : Word), fitsZext 8 imm = true → lowZero 2 imm = true → let f : Fields := { rs2 := rs2, imm := imm };
    InBoth (.cSwsp rs2 imm) 155 195 0xC002 0xE003 false 40 0x014 f ∧
    In32 (.cFswsp rs2 imm) 156 0xE002 0xE003 false 40 0x014 f) ∧
  WordIs .rv32 0xDF86 155 (.cSwsp 1 252) ∧
  WordIs .rv32 0xFF86 156 (.cFswsp 1 252) ∧
  (∀ w : Word, let F := fieldsOf 41 w;
    fvalidOf 41 = 0x014 ∧
    F = { rs2 := w.extractLsb 6 2, imm := zext 9 (w.extractLsb 9 7 ++ w.extractLsb 12 10 ++ 0#3) } ∧
    0 ≤ F.imm.toInt ∧ F.imm.toInt ≤ 504 ∧ F.imm.toInt % 8 = 0 ∧ F.rs1 = 0) ∧
  (∀ (rs2 : Reg) (imm : Word), fitsZext 9 imm = true → lowZero 3 imm = true → let f : Fields := { rs2 := rs2, imm := imm };
    InBoth (.cFsdsp rs2 imm) 154 194 0xA002 0xE003 false 41 0x014 f ∧
    In64 (.cSdsp rs2 imm) 196 0xE002 0xE003 false 41 0x014 f) ∧
  WordIs .rv32 0xBF86 154 (.cFsdsp 1 504) ∧
  WordIs .rv64 0xFF86 196 (.cSdsp 1 504)

/-- Tag CIW: C.ADDI4SPN completes (R128). -/
def Obligations.CompressedWideImmediateTagCompletes : Prop :=
  (∀ w : Word, let F := fieldsOf 42 w;
    fvalidOf 42 = 0x011 ∧
    F = { rd := 8#5 + (w.extractLsb 4 2).setWidth 5,
          imm := zext 10 (w.extractLsb 10 7 ++ w.extractLsb 12 11 ++ w.extractLsb 5 5 ++ w.extractLsb 6 6 ++ 0#2) } ∧
    0 ≤ F.imm.toInt ∧ F.imm.toInt ≤ 1020 ∧ F.imm.toInt % 4 = 0 ∧ 8 ≤ F.rd.toNat ∧ F.rd.toNat ≤ 15 ∧ F.rs1 = 0) ∧
  (∀ (rd : Reg) (imm : Word), isPrime rd = true → fitsZext 10 imm = true → lowZero 2 imm = true → let f : Fields := { rd := rd, imm := imm };
    InBoth (.cAddi4spn rd imm) 122 160 0x0000 0xE003 false 42 0x011 f) ∧
  WordIs .rv32 0x0000 122 (.cAddi4spn 8 0) ∧
  WordIs .rv32 0x1FFC 122 (.cAddi4spn 15 1020) ∧
  WordIs .rv32 0x0040 122 (.cAddi4spn 8 4)

/-- Tags CL_W, CL_D, CS_W and CS_D: the compressed loads and stores complete (R129, R130, R131, R132). -/
def Obligations.CompressedLoadStoreTagsComplete : Prop :=
  (∀ w : Word, let F := fieldsOf 43 w;
    fvalidOf 43 = 0x013 ∧
    F = { rd := 8#5 + (w.extractLsb 4 2).setWidth 5, rs1 := 8#5 + (w.extractLsb 9 7).setWidth 5,
          imm := zext 7 (w.extractLsb 5 5 ++ w.extractLsb 12 10 ++ w.extractLsb 6 6 ++ 0#2) } ∧
    0 ≤ F.imm.toInt ∧ F.imm.toInt ≤ 124 ∧ F.imm.toInt % 4 = 0 ∧ 8 ≤ F.rd.toNat ∧ F.rd.toNat ≤ 15 ∧ 8 ≤ F.rs1.toNat ∧ F.rs1.toNat ≤ 15) ∧
  (∀ (rd rs1 : Reg) (imm : Word), isPrime rd = true → isPrime rs1 = true → fitsZext 7 imm = true → lowZero 2 imm = true → let f : Fields := { rd := rd, rs1 := rs1, imm := imm };
    InBoth (.cLw rd rs1 imm) 124 162 0x4000 0xE003 false 43 0x013 f ∧
    In32 (.cFlw rd rs1 imm) 125 0x6000 0xE003 false 43 0x013 f) ∧
  WordIs .rv32 0x5FFC 124 (.cLw 15 15 124) ∧
  (∀ w : Word, let F := fieldsOf 44 w;
    fvalidOf 44 = 0x013 ∧
    F = { rd := 8#5 + (w.extractLsb 4 2).setWidth 5, rs1 := 8#5 + (w.extractLsb 9 7).setWidth 5,
          imm := zext 8 (w.extractLsb 6 5 ++ w.extractLsb 12 10 ++ 0#3) } ∧
    0 ≤ F.imm.toInt ∧ F.imm.toInt ≤ 248 ∧ F.imm.toInt % 8 = 0 ∧ 8 ≤ F.rd.toNat ∧ F.rd.toNat ≤ 15 ∧ 8 ≤ F.rs1.toNat ∧ F.rs1.toNat ≤ 15) ∧
  (∀ (rd rs1 : Reg) (imm : Word), isPrime rd = true → isPrime rs1 = true → fitsZext 8 imm = true → lowZero 3 imm = true → let f : Fields := { rd := rd, rs1 := rs1, imm := imm };
    InBoth (.cFld rd rs1 imm) 123 161 0x2000 0xE003 false 44 0x013 f ∧
    In64 (.cLd rd rs1 imm) 163 0x6000 0xE003 false 44 0x013 f) ∧
  WordIs .rv32 0x3FFC 123 (.cFld 15 15 248) ∧
  WordIs .rv64 0x6000 163 (.cLd 8 8 0) ∧
  (∀ w : Word, let F := fieldsOf 45 w;
    fvalidOf 45 = 0x016 ∧
    F = { rs1 := 8#5 + (w.extractLsb 9 7).setWidth 5, rs2 := 8#5 + (w.extractLsb 4 2).setWidth 5,
          imm := zext 7 (w.extractLsb 5 5 ++ w.extractLsb 12 10 ++ w.extractLsb 6 6 ++ 0#2) } ∧
    0 ≤ F.imm.toInt ∧ F.imm.toInt ≤ 124 ∧ F.imm.toInt % 4 = 0 ∧ 8 ≤ F.rs1.toNat ∧ F.rs1.toNat ≤ 15 ∧ 8 ≤ F.rs2.toNat ∧ F.rs2.toNat ≤ 15) ∧
  (∀ (rs1 rs2 : Reg) (imm : Word), isPrime rs1 = true → isPrime rs2 = true → fitsZext 7 imm = true → lowZero 2 imm = true → let f : Fields := { rs1 := rs1, rs2 := rs2, imm := imm };
    InBoth (.cSw rs1 rs2 imm) 127 165 0xC000 0xE003 false 45 0x016 f ∧
    In32 (.cFsw rs1 rs2 imm) 128 0xE000 0xE003 false 45 0x016 f) ∧
  WordIs .rv32 0xDFFC 127 (.cSw 15 15 124) ∧
  (∀ w : Word, let F := fieldsOf 46 w;
    fvalidOf 46 = 0x016 ∧
    F = { rs1 := 8#5 + (w.extractLsb 9 7).setWidth 5, rs2 := 8#5 + (w.extractLsb 4 2).setWidth 5,
          imm := zext 8 (w.extractLsb 6 5 ++ w.extractLsb 12 10 ++ 0#3) } ∧
    0 ≤ F.imm.toInt ∧ F.imm.toInt ≤ 248 ∧ F.imm.toInt % 8 = 0 ∧ 8 ≤ F.rs1.toNat ∧ F.rs1.toNat ≤ 15 ∧ 8 ≤ F.rs2.toNat ∧ F.rs2.toNat ≤ 15) ∧
  (∀ (rs1 rs2 : Reg) (imm : Word), isPrime rs1 = true → isPrime rs2 = true → fitsZext 8 imm = true → lowZero 3 imm = true → let f : Fields := { rs1 := rs1, rs2 := rs2, imm := imm };
    InBoth (.cFsd rs1 rs2 imm) 126 164 0xA000 0xE003 false 46 0x016 f ∧
    In64 (.cSd rs1 rs2 imm) 166 0xE000 0xE003 false 46 0x016 f) ∧
  WordIs .rv32 0xA000 126 (.cFsd 8 8 0) ∧
  WordIs .rv64 0xFFFC 166 (.cSd 15 15 248)

/-- Tag CA: the compressed register-register entries complete (R133). -/
def Obligations.CompressedArithmeticTagCompletes : Prop :=
  (∀ w : Word, let F := fieldsOf 47 w;
    fvalidOf 47 = 0x005 ∧
    F = { rd := 8#5 + (w.extractLsb 9 7).setWidth 5, rs2 := 8#5 + (w.extractLsb 4 2).setWidth 5 } ∧
    8 ≤ F.rd.toNat ∧ F.rd.toNat ≤ 15 ∧ 8 ≤ F.rs2.toNat ∧ F.rs2.toNat ≤ 15 ∧ F.rs1 = 0) ∧
  (∀ (rd rs2 : Reg), isPrime rd = true → isPrime rs2 = true → let f : Fields := { rd := rd, rs2 := rs2 };
    InBoth (.cSub rd rs2) 138 176 0x8C01 0xFC63 false 47 0x005 f ∧
    InBoth (.cXor rd rs2) 139 177 0x8C21 0xFC63 false 47 0x005 f ∧
    InBoth (.cOr rd rs2) 140 178 0x8C41 0xFC63 false 47 0x005 f ∧
    InBoth (.cAnd rd rs2) 141 179 0x8C61 0xFC63 false 47 0x005 f ∧
    In64 (.cSubw rd rs2) 180 0x9C01 0xFC63 false 47 0x005 f ∧
    In64 (.cAddw rd rs2) 181 0x9C21 0xFC63 false 47 0x005 f) ∧
  WordIs .rv32 0x8C1D 138 (.cSub 8 15) ∧
  WordIs .rv64 0x9C21 181 (.cAddw 8 8)

/-- Tags CB_BR, CB_SH and CB_ANDI: compressed branches, right shifts and C.ANDI complete (R134, R135, R136). -/
def Obligations.CompressedBranchAndShiftTagsComplete : Prop :=
  (∀ w : Word, let F := fieldsOf 48 w;
    fvalidOf 48 = 0x012 ∧
    F = { rs1 := 8#5 + (w.extractLsb 9 7).setWidth 5,
          imm := sext 9 (w.extractLsb 12 12 ++ w.extractLsb 6 5 ++ w.extractLsb 2 2 ++ w.extractLsb 11 10 ++ w.extractLsb 4 3 ++ 0#1) } ∧
    -256 ≤ F.imm.toInt ∧ F.imm.toInt ≤ 254 ∧ F.imm.toInt % 2 = 0 ∧ 8 ≤ F.rs1.toNat ∧ F.rs1.toNat ≤ 15) ∧
  (∀ (rs1 : Reg) (imm : Word), isPrime rs1 = true → fitsSext 9 imm = true → lowZero 1 imm = true → let f : Fields := { rs1 := rs1, imm := imm };
    InBoth (.cBeqz rs1 imm) 143 183 0xC001 0xE003 false 48 0x012 f ∧
    InBoth (.cBnez rs1 imm) 144 184 0xE001 0xE003 false 48 0x012 f) ∧
  WordIs .rv32 0xF001 144 (.cBnez 8 0xFFFFFF00) ∧
  WordIs .rv32 0xEFFD 144 (.cBnez 15 254) ∧
  WordIs .rv32 0xDC7D 143 (.cBeqz 8 0xFFFFFFFE) ∧
  WordIs .rv32 0xFDED 144 (.cBnez 11 0xFFFFFFFA) ∧
  (∀ w : Word, let F := fieldsOf 49 w;
    fvalidOf 49 = 0x041 ∧
    F = { rd := 8#5 + (w.extractLsb 9 7).setWidth 5, shamt := w.extractLsb 12 12 ++ w.extractLsb 6 2 } ∧
    8 ≤ F.rd.toNat ∧ F.rd.toNat ≤ 15 ∧ F.rs1 = 0) ∧
  (∀ (rd : Reg) (shamt : BitVec 6), isPrime rd = true → fitsFive shamt = true → let f : Fields := { rd := rd, shamt := shamt };
    In32 (.cSrli32 rd shamt) 135 0x8001 0xFC03 false 49 0x041 f ∧
    In32 (.cSrai32 rd shamt) 136 0x8401 0xFC03 false 49 0x041 f) ∧
  (∀ (rd : Reg) (shamt : BitVec 6), isPrime rd = true → let f : Fields := { rd := rd, shamt := shamt };
    In64 (.cSrli64 rd shamt) 173 0x8001 0xEC03 false 49 0x041 f ∧
    In64 (.cSrai64 rd shamt) 174 0x8401 0xEC03 false 49 0x041 f) ∧
  WordIsNoMatch .rv32 0x907D ∧
  WordIs .rv64 0x907D 173 (.cSrli64 8 63) ∧
  WordIs .rv32 0x807D 135 (.cSrli32 8 31) ∧
  WordIs .rv32 0x8485 136 (.cSrai32 9 1) ∧
  (∀ w : Word, let F := fieldsOf 50 w;
    fvalidOf 50 = 0x011 ∧
    F = { rd := 8#5 + (w.extractLsb 9 7).setWidth 5, imm := sext 6 (w.extractLsb 12 12 ++ w.extractLsb 6 2) } ∧
    -32 ≤ F.imm.toInt ∧ F.imm.toInt ≤ 31 ∧ 8 ≤ F.rd.toNat ∧ F.rd.toNat ≤ 15 ∧ F.rs1 = 0) ∧
  (∀ (rd : Reg) (imm : Word), isPrime rd = true → fitsSext 6 imm = true → let f : Fields := { rd := rd, imm := imm };
    InBoth (.cAndi rd imm) 137 175 0x8801 0xEC03 false 50 0x011 f) ∧
  WordIs .rv32 0x997D 137 (.cAndi 10 0xFFFFFFFF)

/-- Tag CJ: C.J and C.JAL complete (R137). -/
def Obligations.CompressedJumpTagCompletes : Prop :=
  (∀ w : Word, let F := fieldsOf 51 w;
    fvalidOf 51 = 0x010 ∧
    F = { imm := sext 12 (w.extractLsb 12 12 ++ w.extractLsb 8 8 ++ w.extractLsb 10 9 ++ w.extractLsb 6 6 ++ w.extractLsb 7 7 ++
            w.extractLsb 2 2 ++ w.extractLsb 11 11 ++ w.extractLsb 5 3 ++ 0#1) } ∧
    -2048 ≤ F.imm.toInt ∧ F.imm.toInt ≤ 2046 ∧ F.imm.toInt % 2 = 0 ∧ F.rd = 0) ∧
  (∀ (imm : Word), fitsSext 12 imm = true → lowZero 1 imm = true → let f : Fields := { imm := imm };
    In32 (.cJal imm) 131 0x2001 0xE003 false 51 0x010 f ∧
    InBoth (.cJ imm) 142 182 0xA001 0xE003 false 51 0x010 f) ∧
  WordIs .rv32 0xAFFD 142 (.cJ 2046) ∧
  WordIs .rv32 0xB001 142 (.cJ 0xFFFFF800) ∧
  WordIs .rv32 0x2001 131 (.cJal 0) ∧
  WordIs .rv64 0x2001 169 (.cAddiw 0 0) ∧
  WordIs .rv32 0xBFFD 142 (.cJ 0xFFFFFFFE) ∧
  WordIs .rv32 0xA009 142 (.cJ 2)

/-- The diagnostics a build emits (R79, R80). -/
def Obligations.BuildReportsOverlapsAndDeadEntries : Prop :=
  (∀ (ms : List CatalogModule) (c : Catalog), build ms = .ok c →
    (∀ i j, .overlap i j ∈ c.diagnostics ↔ i < j ∧ ∃ a b, c.entries[i]? = some a ∧ c.entries[j]? = some b ∧ a.w16 = b.w16 ∧
      (a.value ^^^ b.value) &&& a.mask &&& b.mask = 0 ∧ a.mask &&& ~~~b.mask ≠ 0) ∧
    (∀ i j, .fullshadow i j ∈ c.diagnostics ↔ i < j ∧ ∃ a b, c.entries[i]? = some a ∧ c.entries[j]? = some b ∧ a.w16 = b.w16 ∧
      (a.value ^^^ b.value) &&& a.mask &&& b.mask = 0 ∧ a.mask &&& ~~~b.mask = 0) ∧
    (∀ i, .dead i ∈ c.diagnostics ↔ ∃ e, c.entries[i]? = some e ∧
      (e.w16 = false ∧ e.mask.extractLsb 1 0 &&& ~~~(e.value.extractLsb 1 0) ≠ 0 ∨
        e.w16 = true ∧ e.mask.extractLsb 1 0 = 0b11#2 ∧ e.value.extractLsb 1 0 = 0b11#2)) ∧
    (∀ i j, .fullshadow i j ∈ c.diagnostics → ∀ w, firstMatch c.entries w ≠ some j) ∧
    (∀ i, .dead i ∈ c.diagnostics → ∀ w, firstMatch c.entries w ≠ some i)) ∧
  (∀ a b : Entry, a.value &&& ~~~a.mask = 0 → b.value &&& ~~~b.mask = 0 →
    ((a.value ^^^ b.value) &&& a.mask &&& b.mask = 0 ↔ ∃ w : Word, w &&& a.mask = a.value ∧ w &&& b.mask = b.value)) ∧
  (∀ a b : Entry, (a.value ^^^ b.value) &&& a.mask &&& b.mask = 0 → a.mask &&& ~~~b.mask = 0 → a.value &&& ~~~a.mask = 0 →
    ∀ w : Word, w &&& b.mask = b.value → w &&& a.mask = a.value) ∧
  (∀ ms : List CatalogModule, (∃ c, build ms = .ok c) ↔ ∀ m ∈ ms, ∀ d ∈ m.defs, ∃ e, compile d = .ok e) ∧
  (∀ (ms : List CatalogModule) (c : Catalog) (l : List (Entry × String)), build ms = .ok c →
    (ms.flatMap CatalogModule.defs).map compile = l.map Except.ok →
    c.entries = (l.filter (fun e => !e.1.w16) ++ l.filter (fun e => e.1.w16)).map Prod.fst)
end

