-- ==== Sys2Proof/Laws/Bits.lean ====
section
/-! SUPPORT. The formats bit by bit: what a mask leaves of a laid-out word, the width bits, and every operand read back from the
word it was laid out in. -/

namespace Sys2Proof.Laws

set_option linter.unusedSimpArgs false

open Sys2Proof.Machine

theorem rp_prime {r : Reg} (h : isPrime r) : rp (prime r) = r := by
  revert r; decide

theorem prime_rp (x : BitVec 3) : prime (rp x) = x := by
  revert x; decide

theorem isPrime_rp (x : BitVec 3) : isPrime (rp x) = true := by
  revert x; decide

theorem sext_of_fits {n : Nat} {imm : Word} (h : fitsSext n imm) : sext n (imm.setWidth n) = imm :=
  eq_of_beq h

theorem zext_of_fits {n : Nat} {imm : Word} (h : fitsZext n imm) : zext n (imm.setWidth n) = imm :=
  eq_of_beq h

theorem lowZero_bits {k : Nat} {imm : Word} (h : lowZero k imm) (i : Nat) (hi : i < k) (h32 : i < 32) :
    imm[i] = false := by
  have e : imm.setWidth k = 0#k := eq_of_beq h
  simpa [BitVec.getLsbD_setWidth, hi, BitVec.getLsbD_eq_getElem h32] using congrArg (BitVec.getLsbD · i) e

theorem setWidth_of_fitsFive {s : BitVec 6} (h : fitsFive s) : (s.extractLsb 4 0).setWidth 6 = s := by
  revert s; decide

theorem bit5_of_fitsFive {s : BitVec 6} (h : fitsFive s) : s.extractLsb 5 5 = 0#1 := by
  revert s; decide

theorem compressed_lowHalf (c : Half) : compressed (lowHalf (compressed c)) = compressed c := by
  apply BitVec.eq_of_getLsbD_eq; intro i hi
  interval_cases i <;> simp only [compressed, lowHalf, BitVec.getLsbD_append, BitVec.getLsbD_extractLsb] <;> simp

/-! ## The literal bits of a format: the mask keeps the literals and clears every operand bit -/

theorem literal_R (f7 : BitVec 7) (rs2 rs1 : Reg) (f3 : BitVec 3) (rd : Reg) (op : BitVec 7) :
    encR f7 rs2 rs1 f3 rd op &&& 0xFE00707F#32 = encR f7 0 0 f3 0 op := by
  apply BitVec.eq_of_getLsbD_eq; intro i hi
  interval_cases i <;> simp only [encR, BitVec.getLsbD_append, BitVec.getLsbD_extractLsb, BitVec.getLsbD_and] <;> simp

theorem literal_R2 (f7 : BitVec 7) (rs2 rs1 : Reg) (f3 : BitVec 3) (rd : Reg) (op : BitVec 7) :
    encR f7 rs2 rs1 f3 rd op &&& 0xFFF0707F#32 = encR f7 rs2 0 f3 0 op := by
  apply BitVec.eq_of_getLsbD_eq; intro i hi
  interval_cases i <;> simp only [encR, BitVec.getLsbD_append, BitVec.getLsbD_extractLsb, BitVec.getLsbD_and] <;> simp

theorem literal_Rs (f7 : BitVec 7) (rs2 rs1 : Reg) (f3 : BitVec 3) (rd : Reg) (op : BitVec 7) :
    encR f7 rs2 rs1 f3 rd op &&& 0xFE007FFF#32 = encR f7 0 0 f3 rd op := by
  apply BitVec.eq_of_getLsbD_eq; intro i hi
  interval_cases i <;> simp only [encR, BitVec.getLsbD_append, BitVec.getLsbD_extractLsb, BitVec.getLsbD_and] <;> simp

theorem literal_RRm (f7 : BitVec 7) (rs2 rs1 : Reg) (f3 : BitVec 3) (rd : Reg) (op : BitVec 7) :
    encR f7 rs2 rs1 f3 rd op &&& 0xFE00007F#32 = encR f7 0 0 0 0 op := by
  apply BitVec.eq_of_getLsbD_eq; intro i hi
  interval_cases i <;> simp only [encR, BitVec.getLsbD_append, BitVec.getLsbD_extractLsb, BitVec.getLsbD_and] <;> simp

theorem literal_R2Rm (f7 : BitVec 7) (rs2 rs1 : Reg) (f3 : BitVec 3) (rd : Reg) (op : BitVec 7) :
    encR f7 rs2 rs1 f3 rd op &&& 0xFFF0007F#32 = encR f7 rs2 0 0 0 op := by
  apply BitVec.eq_of_getLsbD_eq; intro i hi
  interval_cases i <;> simp only [encR, BitVec.getLsbD_append, BitVec.getLsbD_extractLsb, BitVec.getLsbD_and] <;> simp

theorem literal_R4Rm (rs3 : Reg) (f2 : BitVec 2) (rs2 rs1 : Reg) (rm : BitVec 3) (rd : Reg) (op : BitVec 7) :
    encR4 rs3 f2 rs2 rs1 rm rd op &&& 0x0600007F#32 = encR4 0 f2 0 0 0 0 op := by
  apply BitVec.eq_of_getLsbD_eq; intro i hi
  interval_cases i <;> simp only [encR4, BitVec.getLsbD_append, BitVec.getLsbD_extractLsb, BitVec.getLsbD_and] <;> simp

theorem literal_Amo (f5 : BitVec 5) (aq rl : Bool) (rs2 rs1 : Reg) (f3 : BitVec 3) (rd : Reg) (op : BitVec 7) :
    encAmo f5 aq rl rs2 rs1 f3 rd op &&& 0xF800707F#32 = encAmo f5 false false 0 0 f3 0 op := by
  apply BitVec.eq_of_getLsbD_eq; intro i hi
  interval_cases i <;> simp only [encAmo, BitVec.getLsbD_append, BitVec.getLsbD_extractLsb, BitVec.getLsbD_and] <;> simp

theorem literal_Lr (f5 : BitVec 5) (aq rl : Bool) (rs2 rs1 : Reg) (f3 : BitVec 3) (rd : Reg) (op : BitVec 7) :
    encAmo f5 aq rl rs2 rs1 f3 rd op &&& 0xF9F0707F#32 = encAmo f5 false false rs2 0 f3 0 op := by
  apply BitVec.eq_of_getLsbD_eq; intro i hi
  interval_cases i <;> simp only [encAmo, BitVec.getLsbD_append, BitVec.getLsbD_extractLsb, BitVec.getLsbD_and] <;> simp

theorem literal_Csr (csr : BitVec 12) (rs1 : Reg) (f3 : BitVec 3) (rd : Reg) (op : BitVec 7) :
    encCsr csr rs1 f3 rd op &&& 0x0000707F#32 = encCsr 0 0 f3 0 op := by
  apply BitVec.eq_of_getLsbD_eq; intro i hi
  interval_cases i <;> simp only [encCsr, BitVec.getLsbD_append, BitVec.getLsbD_extractLsb, BitVec.getLsbD_and] <;> simp

theorem literal_I (imm : Word) (rs1 : Reg) (f3 : BitVec 3) (rd : Reg) (op : BitVec 7) :
    encI imm rs1 f3 rd op &&& 0x0000707F#32 = encI 0 0 f3 0 op := by
  apply BitVec.eq_of_getLsbD_eq; intro i hi
  interval_cases i <;> simp only [encI, BitVec.getLsbD_append, BitVec.getLsbD_extractLsb, BitVec.getLsbD_and] <;> simp

theorem literal_Sh5 (f7 : BitVec 7) (shamt : BitVec 6) (rs1 : Reg) (f3 : BitVec 3) (rd : Reg) (op : BitVec 7) :
    encSh5 f7 shamt rs1 f3 rd op &&& 0xFE00707F#32 = encSh5 f7 0 0 f3 0 op := by
  apply BitVec.eq_of_getLsbD_eq; intro i hi
  interval_cases i <;> simp only [encSh5, BitVec.getLsbD_append, BitVec.getLsbD_extractLsb, BitVec.getLsbD_and] <;> simp

theorem literal_Sh6 (f6 shamt : BitVec 6) (rs1 : Reg) (f3 : BitVec 3) (rd : Reg) (op : BitVec 7) :
    encSh6 f6 shamt rs1 f3 rd op &&& 0xFC00707F#32 = encSh6 f6 0 0 f3 0 op := by
  apply BitVec.eq_of_getLsbD_eq; intro i hi
  interval_cases i <;> simp only [encSh6, BitVec.getLsbD_append, BitVec.getLsbD_extractLsb, BitVec.getLsbD_and] <;> simp

theorem literal_S (imm : Word) (rs2 rs1 : Reg) (f3 : BitVec 3) (op : BitVec 7) :
    encS imm rs2 rs1 f3 op &&& 0x0000707F#32 = encS 0 0 0 f3 op := by
  apply BitVec.eq_of_getLsbD_eq; intro i hi
  interval_cases i <;> simp only [encS, BitVec.getLsbD_append, BitVec.getLsbD_extractLsb, BitVec.getLsbD_and] <;> simp

theorem literal_B (imm : Word) (rs2 rs1 : Reg) (f3 : BitVec 3) (op : BitVec 7) :
    encB imm rs2 rs1 f3 op &&& 0x0000707F#32 = encB 0 0 0 f3 op := by
  apply BitVec.eq_of_getLsbD_eq; intro i hi
  interval_cases i <;> simp only [encB, BitVec.getLsbD_append, BitVec.getLsbD_extractLsb, BitVec.getLsbD_and] <;> simp

theorem literal_U (imm : Word) (rd : Reg) (op : BitVec 7) :
    encU imm rd op &&& 0x0000007F#32 = encU 0 0 op := by
  apply BitVec.eq_of_getLsbD_eq; intro i hi
  interval_cases i <;> simp only [encU, BitVec.getLsbD_append, BitVec.getLsbD_extractLsb, BitVec.getLsbD_and] <;> simp

theorem literal_J (imm : Word) (rd : Reg) (op : BitVec 7) :
    encJ imm rd op &&& 0x0000007F#32 = encJ 0 0 op := by
  apply BitVec.eq_of_getLsbD_eq; intro i hi
  interval_cases i <;> simp only [encJ, BitVec.getLsbD_append, BitVec.getLsbD_extractLsb, BitVec.getLsbD_and] <;> simp

theorem literal_CR (f3 : BitVec 3) (b12 : BitVec 1) (r rs2 : Reg) (op2 : BitVec 2) :
    encCR f3 b12 r rs2 op2 &&& 0x0000F003#32 = encCR f3 b12 0 0 op2 := by
  apply BitVec.eq_of_getLsbD_eq; intro i hi
  interval_cases i <;> simp only [encCR, compressed, prime, BitVec.getLsbD_append, BitVec.getLsbD_extractLsb, BitVec.getLsbD_and] <;> simp

theorem literal_CRJr (f3 : BitVec 3) (b12 : BitVec 1) (r rs2 : Reg) (op2 : BitVec 2) :
    encCR f3 b12 r rs2 op2 &&& 0x0000F07F#32 = encCR f3 b12 0 rs2 op2 := by
  apply BitVec.eq_of_getLsbD_eq; intro i hi
  interval_cases i <;> simp only [encCR, compressed, prime, BitVec.getLsbD_append, BitVec.getLsbD_extractLsb, BitVec.getLsbD_and] <;> simp

theorem literal_CI (f3 : BitVec 3) (b12 : BitVec 1) (rd : Reg) (low : BitVec 5) (op2 : BitVec 2) :
    encCI f3 b12 rd low op2 &&& 0x0000E003#32 = encCI f3 0 0 0 op2 := by
  apply BitVec.eq_of_getLsbD_eq; intro i hi
  interval_cases i <;> simp only [encCI, compressed, prime, BitVec.getLsbD_append, BitVec.getLsbD_extractLsb, BitVec.getLsbD_and] <;> simp

theorem literal_CISh (f3 : BitVec 3) (b12 : BitVec 1) (rd : Reg) (low : BitVec 5) (op2 : BitVec 2) :
    encCI f3 b12 rd low op2 &&& 0x0000F003#32 = encCI f3 b12 0 0 op2 := by
  apply BitVec.eq_of_getLsbD_eq; intro i hi
  interval_cases i <;> simp only [encCI, compressed, prime, BitVec.getLsbD_append, BitVec.getLsbD_extractLsb, BitVec.getLsbD_and] <;> simp

theorem literal_CIAddi16sp (f3 : BitVec 3) (b12 : BitVec 1) (rd : Reg) (low : BitVec 5) (op2 : BitVec 2) :
    encCI f3 b12 rd low op2 &&& 0x0000EF83#32 = encCI f3 0 rd 0 op2 := by
  apply BitVec.eq_of_getLsbD_eq; intro i hi
  interval_cases i <;> simp only [encCI, compressed, prime, BitVec.getLsbD_append, BitVec.getLsbD_extractLsb, BitVec.getLsbD_and] <;> simp

theorem literal_CSS (f3 : BitVec 3) (imm6 : BitVec 6) (rs2 : Reg) (op2 : BitVec 2) :
    encCSS f3 imm6 rs2 op2 &&& 0x0000E003#32 = encCSS f3 0 0 op2 := by
  apply BitVec.eq_of_getLsbD_eq; intro i hi
  interval_cases i <;> simp only [encCSS, compressed, prime, BitVec.getLsbD_append, BitVec.getLsbD_extractLsb, BitVec.getLsbD_and] <;> simp

theorem literal_CIW (f3 : BitVec 3) (imm8 : BitVec 8) (rd : Reg) (op2 : BitVec 2) :
    encCIW f3 imm8 rd op2 &&& 0x0000E003#32 = encCIW f3 0 0 op2 := by
  apply BitVec.eq_of_getLsbD_eq; intro i hi
  interval_cases i <;> simp only [encCIW, compressed, prime, BitVec.getLsbD_append, BitVec.getLsbD_extractLsb, BitVec.getLsbD_and] <;> simp

theorem literal_CL (f3 high : BitVec 3) (rs1 : Reg) (low2 : BitVec 2) (r : Reg) (op2 : BitVec 2) :
    encCL f3 high rs1 low2 r op2 &&& 0x0000E003#32 = encCL f3 0 0 0 0 op2 := by
  apply BitVec.eq_of_getLsbD_eq; intro i hi
  interval_cases i <;> simp only [encCL, compressed, prime, BitVec.getLsbD_append, BitVec.getLsbD_extractLsb, BitVec.getLsbD_and] <;> simp

theorem literal_CA (f3 : BitVec 3) (b12 : BitVec 1) (f2 : BitVec 2) (rd : Reg) (g2 : BitVec 2) (rs2 : Reg) (op2 : BitVec 2) :
    encCA f3 b12 f2 rd g2 rs2 op2 &&& 0x0000FC63#32 = encCA f3 b12 f2 0 g2 0 op2 := by
  apply BitVec.eq_of_getLsbD_eq; intro i hi
  interval_cases i <;> simp only [encCA, compressed, prime, BitVec.getLsbD_append, BitVec.getLsbD_extractLsb, BitVec.getLsbD_and] <;> simp

theorem literal_CB (f3 high : BitVec 3) (r : Reg) (low : BitVec 5) (op2 : BitVec 2) :
    encCB f3 high r low op2 &&& 0x0000E003#32 = encCB f3 0 0 0 op2 := by
  apply BitVec.eq_of_getLsbD_eq; intro i hi
  interval_cases i <;> simp only [encCB, compressed, prime, BitVec.getLsbD_append, BitVec.getLsbD_extractLsb, BitVec.getLsbD_and] <;> simp

theorem literal_CJ (f3 : BitVec 3) (imm : Word) (op2 : BitVec 2) :
    encCJ f3 imm op2 &&& 0x0000E003#32 = encCJ f3 0 op2 := by
  apply BitVec.eq_of_getLsbD_eq; intro i hi
  interval_cases i <;> simp only [encCJ, compressed, prime, BitVec.getLsbD_append, BitVec.getLsbD_extractLsb, BitVec.getLsbD_and] <;> simp

theorem literal_CBSh (f3 : BitVec 3) (b5 : BitVec 1) (f2 : BitVec 2) (r : Reg) (low : BitVec 5) (op2 : BitVec 2) :
    encCB f3 (b5 ++ f2) r low op2 &&& 0x0000EC03#32 = encCB f3 (0#1 ++ f2) 0 0 op2 := by
  apply BitVec.eq_of_getLsbD_eq; intro i hi
  interval_cases i <;> simp only [encCB, compressed, prime, BitVec.getLsbD_append, BitVec.getLsbD_extractLsb, BitVec.getLsbD_and] <;> simp

theorem literal_CBSh5 (f3 : BitVec 3) (b5 : BitVec 1) (f2 : BitVec 2) (r : Reg) (low : BitVec 5) (op2 : BitVec 2) :
    encCB f3 (b5 ++ f2) r low op2 &&& 0x0000FC03#32 = encCB f3 (b5 ++ f2) 0 0 op2 := by
  apply BitVec.eq_of_getLsbD_eq; intro i hi
  interval_cases i <;> simp only [encCB, compressed, prime, BitVec.getLsbD_append, BitVec.getLsbD_extractLsb, BitVec.getLsbD_and] <;> simp

/-! ## The width bits of a format -/

theorem width_encR (f7 : BitVec 7) (rs2 rs1 : Reg) (f3 : BitVec 3) (rd : Reg) (op : BitVec 7) :
    (encR f7 rs2 rs1 f3 rd op).extractLsb 1 0 = op.extractLsb 1 0 := by
  apply BitVec.eq_of_getLsbD_eq; intro i hi
  interval_cases i <;> simp only [encR, BitVec.getLsbD_append, BitVec.getLsbD_extractLsb] <;> simp

theorem width_encR4 (rs3 : Reg) (f2 : BitVec 2) (rs2 rs1 : Reg) (rm : BitVec 3) (rd : Reg) (op : BitVec 7) :
    (encR4 rs3 f2 rs2 rs1 rm rd op).extractLsb 1 0 = op.extractLsb 1 0 := by
  apply BitVec.eq_of_getLsbD_eq; intro i hi
  interval_cases i <;> simp only [encR4, BitVec.getLsbD_append, BitVec.getLsbD_extractLsb] <;> simp

theorem width_encAmo (f5 : BitVec 5) (aq rl : Bool) (rs2 rs1 : Reg) (f3 : BitVec 3) (rd : Reg) (op : BitVec 7) :
    (encAmo f5 aq rl rs2 rs1 f3 rd op).extractLsb 1 0 = op.extractLsb 1 0 := by
  apply BitVec.eq_of_getLsbD_eq; intro i hi
  interval_cases i <;> simp only [encAmo, BitVec.getLsbD_append, BitVec.getLsbD_extractLsb] <;> simp

theorem width_encCsr (csr : BitVec 12) (rs1 : Reg) (f3 : BitVec 3) (rd : Reg) (op : BitVec 7) :
    (encCsr csr rs1 f3 rd op).extractLsb 1 0 = op.extractLsb 1 0 := by
  apply BitVec.eq_of_getLsbD_eq; intro i hi
  interval_cases i <;> simp only [encCsr, BitVec.getLsbD_append, BitVec.getLsbD_extractLsb] <;> simp

theorem width_encI (imm : Word) (rs1 : Reg) (f3 : BitVec 3) (rd : Reg) (op : BitVec 7) :
    (encI imm rs1 f3 rd op).extractLsb 1 0 = op.extractLsb 1 0 := by
  apply BitVec.eq_of_getLsbD_eq; intro i hi
  interval_cases i <;> simp only [encI, BitVec.getLsbD_append, BitVec.getLsbD_extractLsb] <;> simp

theorem width_encSh5 (f7 : BitVec 7) (shamt : BitVec 6) (rs1 : Reg) (f3 : BitVec 3) (rd : Reg) (op : BitVec 7) :
    (encSh5 f7 shamt rs1 f3 rd op).extractLsb 1 0 = op.extractLsb 1 0 := by
  apply BitVec.eq_of_getLsbD_eq; intro i hi
  interval_cases i <;> simp only [encSh5, BitVec.getLsbD_append, BitVec.getLsbD_extractLsb] <;> simp

theorem width_encSh6 (f6 shamt : BitVec 6) (rs1 : Reg) (f3 : BitVec 3) (rd : Reg) (op : BitVec 7) :
    (encSh6 f6 shamt rs1 f3 rd op).extractLsb 1 0 = op.extractLsb 1 0 := by
  apply BitVec.eq_of_getLsbD_eq; intro i hi
  interval_cases i <;> simp only [encSh6, BitVec.getLsbD_append, BitVec.getLsbD_extractLsb] <;> simp

theorem width_encS (imm : Word) (rs2 rs1 : Reg) (f3 : BitVec 3) (op : BitVec 7) :
    (encS imm rs2 rs1 f3 op).extractLsb 1 0 = op.extractLsb 1 0 := by
  apply BitVec.eq_of_getLsbD_eq; intro i hi
  interval_cases i <;> simp only [encS, BitVec.getLsbD_append, BitVec.getLsbD_extractLsb] <;> simp

theorem width_encB (imm : Word) (rs2 rs1 : Reg) (f3 : BitVec 3) (op : BitVec 7) :
    (encB imm rs2 rs1 f3 op).extractLsb 1 0 = op.extractLsb 1 0 := by
  apply BitVec.eq_of_getLsbD_eq; intro i hi
  interval_cases i <;> simp only [encB, BitVec.getLsbD_append, BitVec.getLsbD_extractLsb] <;> simp

theorem width_encU (imm : Word) (rd : Reg) (op : BitVec 7) :
    (encU imm rd op).extractLsb 1 0 = op.extractLsb 1 0 := by
  apply BitVec.eq_of_getLsbD_eq; intro i hi
  interval_cases i <;> simp only [encU, BitVec.getLsbD_append, BitVec.getLsbD_extractLsb] <;> simp

theorem width_encJ (imm : Word) (rd : Reg) (op : BitVec 7) :
    (encJ imm rd op).extractLsb 1 0 = op.extractLsb 1 0 := by
  apply BitVec.eq_of_getLsbD_eq; intro i hi
  interval_cases i <;> simp only [encJ, BitVec.getLsbD_append, BitVec.getLsbD_extractLsb] <;> simp

theorem width_encCR (f3 : BitVec 3) (b12 : BitVec 1) (r rs2 : Reg) (op2 : BitVec 2) :
    (encCR f3 b12 r rs2 op2).extractLsb 1 0 = op2 := by
  apply BitVec.eq_of_getLsbD_eq; intro i hi
  interval_cases i <;> simp only [encCR, compressed, prime, BitVec.getLsbD_append, BitVec.getLsbD_extractLsb] <;> simp

theorem width_encCI (f3 : BitVec 3) (b12 : BitVec 1) (rd : Reg) (low : BitVec 5) (op2 : BitVec 2) :
    (encCI f3 b12 rd low op2).extractLsb 1 0 = op2 := by
  apply BitVec.eq_of_getLsbD_eq; intro i hi
  interval_cases i <;> simp only [encCI, compressed, prime, BitVec.getLsbD_append, BitVec.getLsbD_extractLsb] <;> simp

theorem width_encCSS (f3 : BitVec 3) (imm6 : BitVec 6) (rs2 : Reg) (op2 : BitVec 2) :
    (encCSS f3 imm6 rs2 op2).extractLsb 1 0 = op2 := by
  apply BitVec.eq_of_getLsbD_eq; intro i hi
  interval_cases i <;> simp only [encCSS, compressed, prime, BitVec.getLsbD_append, BitVec.getLsbD_extractLsb] <;> simp

theorem width_encCIW (f3 : BitVec 3) (imm8 : BitVec 8) (rd : Reg) (op2 : BitVec 2) :
    (encCIW f3 imm8 rd op2).extractLsb 1 0 = op2 := by
  apply BitVec.eq_of_getLsbD_eq; intro i hi
  interval_cases i <;> simp only [encCIW, compressed, prime, BitVec.getLsbD_append, BitVec.getLsbD_extractLsb] <;> simp

theorem width_encCL (f3 high : BitVec 3) (rs1 : Reg) (low2 : BitVec 2) (r : Reg) (op2 : BitVec 2) :
    (encCL f3 high rs1 low2 r op2).extractLsb 1 0 = op2 := by
  apply BitVec.eq_of_getLsbD_eq; intro i hi
  interval_cases i <;> simp only [encCL, compressed, prime, BitVec.getLsbD_append, BitVec.getLsbD_extractLsb] <;> simp

theorem width_encCA (f3 : BitVec 3) (b12 : BitVec 1) (f2 : BitVec 2) (rd : Reg) (g2 : BitVec 2) (rs2 : Reg) (op2 : BitVec 2) :
    (encCA f3 b12 f2 rd g2 rs2 op2).extractLsb 1 0 = op2 := by
  apply BitVec.eq_of_getLsbD_eq; intro i hi
  interval_cases i <;> simp only [encCA, compressed, prime, BitVec.getLsbD_append, BitVec.getLsbD_extractLsb] <;> simp

theorem width_encCB (f3 high : BitVec 3) (r : Reg) (low : BitVec 5) (op2 : BitVec 2) :
    (encCB f3 high r low op2).extractLsb 1 0 = op2 := by
  apply BitVec.eq_of_getLsbD_eq; intro i hi
  interval_cases i <;> simp only [encCB, compressed, prime, BitVec.getLsbD_append, BitVec.getLsbD_extractLsb] <;> simp

theorem width_encCJ (f3 : BitVec 3) (imm : Word) (op2 : BitVec 2) :
    (encCJ f3 imm op2).extractLsb 1 0 = op2 := by
  apply BitVec.eq_of_getLsbD_eq; intro i hi
  interval_cases i <;> simp only [encCJ, compressed, prime, BitVec.getLsbD_append, BitVec.getLsbD_extractLsb] <;> simp

/-! ## A 16-bit format has no bit above the low half -/

theorem half_encCR (f3 : BitVec 3) (b12 : BitVec 1) (r rs2 : Reg) (op2 : BitVec 2) :
    compressed (lowHalf (encCR f3 b12 r rs2 op2)) = encCR f3 b12 r rs2 op2 := compressed_lowHalf _

theorem half_encCI (f3 : BitVec 3) (b12 : BitVec 1) (rd : Reg) (low : BitVec 5) (op2 : BitVec 2) :
    compressed (lowHalf (encCI f3 b12 rd low op2)) = encCI f3 b12 rd low op2 := compressed_lowHalf _

theorem half_encCSS (f3 : BitVec 3) (imm6 : BitVec 6) (rs2 : Reg) (op2 : BitVec 2) :
    compressed (lowHalf (encCSS f3 imm6 rs2 op2)) = encCSS f3 imm6 rs2 op2 := compressed_lowHalf _

theorem half_encCIW (f3 : BitVec 3) (imm8 : BitVec 8) (rd : Reg) (op2 : BitVec 2) :
    compressed (lowHalf (encCIW f3 imm8 rd op2)) = encCIW f3 imm8 rd op2 := compressed_lowHalf _

theorem half_encCL (f3 high : BitVec 3) (rs1 : Reg) (low2 : BitVec 2) (r : Reg) (op2 : BitVec 2) :
    compressed (lowHalf (encCL f3 high rs1 low2 r op2)) = encCL f3 high rs1 low2 r op2 := compressed_lowHalf _

theorem half_encCA (f3 : BitVec 3) (b12 : BitVec 1) (f2 : BitVec 2) (rd : Reg) (g2 : BitVec 2) (rs2 : Reg) (op2 : BitVec 2) :
    compressed (lowHalf (encCA f3 b12 f2 rd g2 rs2 op2)) = encCA f3 b12 f2 rd g2 rs2 op2 := compressed_lowHalf _

theorem half_encCB (f3 high : BitVec 3) (r : Reg) (low : BitVec 5) (op2 : BitVec 2) :
    compressed (lowHalf (encCB f3 high r low op2)) = encCB f3 high r low op2 := compressed_lowHalf _

theorem half_encCJ (f3 : BitVec 3) (imm : Word) (op2 : BitVec 2) :
    compressed (lowHalf (encCJ f3 imm op2)) = encCJ f3 imm op2 := compressed_lowHalf _

/-! ## The operands of a format are read back -/

theorem fieldRd_encR (f7 : BitVec 7) (rs2 rs1 : Reg) (f3 : BitVec 3) (rd : Reg) (op : BitVec 7) :
    fieldRd (encR f7 rs2 rs1 f3 rd op) = rd := by
  apply BitVec.eq_of_getLsbD_eq; intro i hi
  interval_cases i <;> simp only [fieldRd, encR, BitVec.getLsbD_append, BitVec.getLsbD_extractLsb] <;> simp

theorem fieldRs1_encR (f7 : BitVec 7) (rs2 rs1 : Reg) (f3 : BitVec 3) (rd : Reg) (op : BitVec 7) :
    fieldRs1 (encR f7 rs2 rs1 f3 rd op) = rs1 := by
  apply BitVec.eq_of_getLsbD_eq; intro i hi
  interval_cases i <;> simp only [fieldRs1, encR, BitVec.getLsbD_append, BitVec.getLsbD_extractLsb] <;> simp

theorem fieldRs2_encR (f7 : BitVec 7) (rs2 rs1 : Reg) (f3 : BitVec 3) (rd : Reg) (op : BitVec 7) :
    fieldRs2 (encR f7 rs2 rs1 f3 rd op) = rs2 := by
  apply BitVec.eq_of_getLsbD_eq; intro i hi
  interval_cases i <;> simp only [fieldRs2, encR, BitVec.getLsbD_append, BitVec.getLsbD_extractLsb] <;> simp

theorem fieldRm_encR (f7 : BitVec 7) (rs2 rs1 : Reg) (f3 : BitVec 3) (rd : Reg) (op : BitVec 7) :
    fieldRm (encR f7 rs2 rs1 f3 rd op) = f3 := by
  apply BitVec.eq_of_getLsbD_eq; intro i hi
  interval_cases i <;> simp only [fieldRm, encR, BitVec.getLsbD_append, BitVec.getLsbD_extractLsb] <;> simp

theorem fieldRd_encR4 (rs3 : Reg) (f2 : BitVec 2) (rs2 rs1 : Reg) (rm : BitVec 3) (rd : Reg) (op : BitVec 7) :
    fieldRd (encR4 rs3 f2 rs2 rs1 rm rd op) = rd := by
  apply BitVec.eq_of_getLsbD_eq; intro i hi
  interval_cases i <;> simp only [fieldRd, encR4, BitVec.getLsbD_append, BitVec.getLsbD_extractLsb] <;> simp

theorem fieldRs1_encR4 (rs3 : Reg) (f2 : BitVec 2) (rs2 rs1 : Reg) (rm : BitVec 3) (rd : Reg) (op : BitVec 7) :
    fieldRs1 (encR4 rs3 f2 rs2 rs1 rm rd op) = rs1 := by
  apply BitVec.eq_of_getLsbD_eq; intro i hi
  interval_cases i <;> simp only [fieldRs1, encR4, BitVec.getLsbD_append, BitVec.getLsbD_extractLsb] <;> simp

theorem fieldRs2_encR4 (rs3 : Reg) (f2 : BitVec 2) (rs2 rs1 : Reg) (rm : BitVec 3) (rd : Reg) (op : BitVec 7) :
    fieldRs2 (encR4 rs3 f2 rs2 rs1 rm rd op) = rs2 := by
  apply BitVec.eq_of_getLsbD_eq; intro i hi
  interval_cases i <;> simp only [fieldRs2, encR4, BitVec.getLsbD_append, BitVec.getLsbD_extractLsb] <;> simp

theorem fieldRs3_encR4 (rs3 : Reg) (f2 : BitVec 2) (rs2 rs1 : Reg) (rm : BitVec 3) (rd : Reg) (op : BitVec 7) :
    fieldRs3 (encR4 rs3 f2 rs2 rs1 rm rd op) = rs3 := by
  apply BitVec.eq_of_getLsbD_eq; intro i hi
  interval_cases i <;> simp only [fieldRs3, encR4, BitVec.getLsbD_append, BitVec.getLsbD_extractLsb] <;> simp

theorem fieldRm_encR4 (rs3 : Reg) (f2 : BitVec 2) (rs2 rs1 : Reg) (rm : BitVec 3) (rd : Reg) (op : BitVec 7) :
    fieldRm (encR4 rs3 f2 rs2 rs1 rm rd op) = rm := by
  apply BitVec.eq_of_getLsbD_eq; intro i hi
  interval_cases i <;> simp only [fieldRm, encR4, BitVec.getLsbD_append, BitVec.getLsbD_extractLsb] <;> simp

theorem fieldRd_encAmo (f5 : BitVec 5) (aq rl : Bool) (rs2 rs1 : Reg) (f3 : BitVec 3) (rd : Reg) (op : BitVec 7) :
    fieldRd (encAmo f5 aq rl rs2 rs1 f3 rd op) = rd := by
  apply BitVec.eq_of_getLsbD_eq; intro i hi
  interval_cases i <;> simp only [fieldRd, encAmo, BitVec.getLsbD_append, BitVec.getLsbD_extractLsb] <;> simp

theorem fieldRs1_encAmo (f5 : BitVec 5) (aq rl : Bool) (rs2 rs1 : Reg) (f3 : BitVec 3) (rd : Reg) (op : BitVec 7) :
    fieldRs1 (encAmo f5 aq rl rs2 rs1 f3 rd op) = rs1 := by
  apply BitVec.eq_of_getLsbD_eq; intro i hi
  interval_cases i <;> simp only [fieldRs1, encAmo, BitVec.getLsbD_append, BitVec.getLsbD_extractLsb] <;> simp

theorem fieldRs2_encAmo (f5 : BitVec 5) (aq rl : Bool) (rs2 rs1 : Reg) (f3 : BitVec 3) (rd : Reg) (op : BitVec 7) :
    fieldRs2 (encAmo f5 aq rl rs2 rs1 f3 rd op) = rs2 := by
  apply BitVec.eq_of_getLsbD_eq; intro i hi
  interval_cases i <;> simp only [fieldRs2, encAmo, BitVec.getLsbD_append, BitVec.getLsbD_extractLsb] <;> simp

theorem fieldRd_encCsr (csr : BitVec 12) (rs1 : Reg) (f3 : BitVec 3) (rd : Reg) (op : BitVec 7) :
    fieldRd (encCsr csr rs1 f3 rd op) = rd := by
  apply BitVec.eq_of_getLsbD_eq; intro i hi
  interval_cases i <;> simp only [fieldRd, encCsr, BitVec.getLsbD_append, BitVec.getLsbD_extractLsb] <;> simp

theorem fieldRs1_encCsr (csr : BitVec 12) (rs1 : Reg) (f3 : BitVec 3) (rd : Reg) (op : BitVec 7) :
    fieldRs1 (encCsr csr rs1 f3 rd op) = rs1 := by
  apply BitVec.eq_of_getLsbD_eq; intro i hi
  interval_cases i <;> simp only [fieldRs1, encCsr, BitVec.getLsbD_append, BitVec.getLsbD_extractLsb] <;> simp

theorem fieldCsr_encCsr (csr : BitVec 12) (rs1 : Reg) (f3 : BitVec 3) (rd : Reg) (op : BitVec 7) :
    fieldCsr (encCsr csr rs1 f3 rd op) = csr := by
  apply BitVec.eq_of_getLsbD_eq; intro i hi
  interval_cases i <;> simp only [fieldCsr, encCsr, BitVec.getLsbD_append, BitVec.getLsbD_extractLsb] <;> simp

theorem fieldRd_encI (imm : Word) (rs1 : Reg) (f3 : BitVec 3) (rd : Reg) (op : BitVec 7) :
    fieldRd (encI imm rs1 f3 rd op) = rd := by
  apply BitVec.eq_of_getLsbD_eq; intro i hi
  interval_cases i <;> simp only [fieldRd, encI, BitVec.getLsbD_append, BitVec.getLsbD_extractLsb] <;> simp

theorem fieldRs1_encI (imm : Word) (rs1 : Reg) (f3 : BitVec 3) (rd : Reg) (op : BitVec 7) :
    fieldRs1 (encI imm rs1 f3 rd op) = rs1 := by
  apply BitVec.eq_of_getLsbD_eq; intro i hi
  interval_cases i <;> simp only [fieldRs1, encI, BitVec.getLsbD_append, BitVec.getLsbD_extractLsb] <;> simp

theorem fieldRd_encSh5 (f7 : BitVec 7) (shamt : BitVec 6) (rs1 : Reg) (f3 : BitVec 3) (rd : Reg) (op : BitVec 7) :
    fieldRd (encSh5 f7 shamt rs1 f3 rd op) = rd := by
  apply BitVec.eq_of_getLsbD_eq; intro i hi
  interval_cases i <;> simp only [fieldRd, encSh5, BitVec.getLsbD_append, BitVec.getLsbD_extractLsb] <;> simp

theorem fieldRs1_encSh5 (f7 : BitVec 7) (shamt : BitVec 6) (rs1 : Reg) (f3 : BitVec 3) (rd : Reg) (op : BitVec 7) :
    fieldRs1 (encSh5 f7 shamt rs1 f3 rd op) = rs1 := by
  apply BitVec.eq_of_getLsbD_eq; intro i hi
  interval_cases i <;> simp only [fieldRs1, encSh5, BitVec.getLsbD_append, BitVec.getLsbD_extractLsb] <;> simp

theorem fieldRd_encSh6 (f6 shamt : BitVec 6) (rs1 : Reg) (f3 : BitVec 3) (rd : Reg) (op : BitVec 7) :
    fieldRd (encSh6 f6 shamt rs1 f3 rd op) = rd := by
  apply BitVec.eq_of_getLsbD_eq; intro i hi
  interval_cases i <;> simp only [fieldRd, encSh6, BitVec.getLsbD_append, BitVec.getLsbD_extractLsb] <;> simp

theorem fieldRs1_encSh6 (f6 shamt : BitVec 6) (rs1 : Reg) (f3 : BitVec 3) (rd : Reg) (op : BitVec 7) :
    fieldRs1 (encSh6 f6 shamt rs1 f3 rd op) = rs1 := by
  apply BitVec.eq_of_getLsbD_eq; intro i hi
  interval_cases i <;> simp only [fieldRs1, encSh6, BitVec.getLsbD_append, BitVec.getLsbD_extractLsb] <;> simp

theorem shamt6_encSh6 (f6 shamt : BitVec 6) (rs1 : Reg) (f3 : BitVec 3) (rd : Reg) (op : BitVec 7) :
    shamt6 (encSh6 f6 shamt rs1 f3 rd op) = shamt := by
  apply BitVec.eq_of_getLsbD_eq; intro i hi
  interval_cases i <;> simp only [shamt6, encSh6, BitVec.getLsbD_append, BitVec.getLsbD_extractLsb] <;> simp

theorem fieldRs1_encS (imm : Word) (rs2 rs1 : Reg) (f3 : BitVec 3) (op : BitVec 7) :
    fieldRs1 (encS imm rs2 rs1 f3 op) = rs1 := by
  apply BitVec.eq_of_getLsbD_eq; intro i hi
  interval_cases i <;> simp only [fieldRs1, encS, BitVec.getLsbD_append, BitVec.getLsbD_extractLsb] <;> simp

theorem fieldRs2_encS (imm : Word) (rs2 rs1 : Reg) (f3 : BitVec 3) (op : BitVec 7) :
    fieldRs2 (encS imm rs2 rs1 f3 op) = rs2 := by
  apply BitVec.eq_of_getLsbD_eq; intro i hi
  interval_cases i <;> simp only [fieldRs2, encS, BitVec.getLsbD_append, BitVec.getLsbD_extractLsb] <;> simp

theorem fieldRs1_encB (imm : Word) (rs2 rs1 : Reg) (f3 : BitVec 3) (op : BitVec 7) :
    fieldRs1 (encB imm rs2 rs1 f3 op) = rs1 := by
  apply BitVec.eq_of_getLsbD_eq; intro i hi
  interval_cases i <;> simp only [fieldRs1, encB, BitVec.getLsbD_append, BitVec.getLsbD_extractLsb] <;> simp

theorem fieldRs2_encB (imm : Word) (rs2 rs1 : Reg) (f3 : BitVec 3) (op : BitVec 7) :
    fieldRs2 (encB imm rs2 rs1 f3 op) = rs2 := by
  apply BitVec.eq_of_getLsbD_eq; intro i hi
  interval_cases i <;> simp only [fieldRs2, encB, BitVec.getLsbD_append, BitVec.getLsbD_extractLsb] <;> simp

theorem fieldRd_encU (imm : Word) (rd : Reg) (op : BitVec 7) :
    fieldRd (encU imm rd op) = rd := by
  apply BitVec.eq_of_getLsbD_eq; intro i hi
  interval_cases i <;> simp only [fieldRd, encU, BitVec.getLsbD_append, BitVec.getLsbD_extractLsb] <;> simp

theorem fieldRd_encJ (imm : Word) (rd : Reg) (op : BitVec 7) :
    fieldRd (encJ imm rd op) = rd := by
  apply BitVec.eq_of_getLsbD_eq; intro i hi
  interval_cases i <;> simp only [fieldRd, encJ, BitVec.getLsbD_append, BitVec.getLsbD_extractLsb] <;> simp

theorem aq_encAmo (f5 : BitVec 5) (aq rl : Bool) (rs2 rs1 : Reg) (f3 : BitVec 3) (rd : Reg) (op : BitVec 7) :
    (encAmo f5 aq rl rs2 rs1 f3 rd op).getLsbD 26 = aq := by
  simp only [encAmo, BitVec.getLsbD_append, BitVec.getLsbD_extractLsb]; simp

theorem rl_encAmo (f5 : BitVec 5) (aq rl : Bool) (rs2 rs1 : Reg) (f3 : BitVec 3) (rd : Reg) (op : BitVec 7) :
    (encAmo f5 aq rl rs2 rs1 f3 rd op).getLsbD 25 = rl := by
  simp only [encAmo, BitVec.getLsbD_append, BitVec.getLsbD_extractLsb]; simp

theorem fieldCRd_encCR (f3 : BitVec 3) (b12 : BitVec 1) (r rs2 : Reg) (op2 : BitVec 2) :
    fieldCRd (lowHalf (encCR f3 b12 r rs2 op2)) = r := by
  apply BitVec.eq_of_getLsbD_eq; intro i hi
  interval_cases i <;> simp only [fieldCRd, encCR, compressed, lowHalf, BitVec.getLsbD_append, BitVec.getLsbD_extractLsb] <;> simp

theorem fieldCRs2_encCR (f3 : BitVec 3) (b12 : BitVec 1) (r rs2 : Reg) (op2 : BitVec 2) :
    fieldCRs2 (lowHalf (encCR f3 b12 r rs2 op2)) = rs2 := by
  apply BitVec.eq_of_getLsbD_eq; intro i hi
  interval_cases i <;> simp only [fieldCRs2, encCR, compressed, lowHalf, BitVec.getLsbD_append, BitVec.getLsbD_extractLsb] <;> simp

theorem fieldCRd_encCI (f3 : BitVec 3) (b12 : BitVec 1) (rd : Reg) (low : BitVec 5) (op2 : BitVec 2) :
    fieldCRd (lowHalf (encCI f3 b12 rd low op2)) = rd := by
  apply BitVec.eq_of_getLsbD_eq; intro i hi
  interval_cases i <;> simp only [fieldCRd, encCI, compressed, lowHalf, BitVec.getLsbD_append, BitVec.getLsbD_extractLsb] <;> simp

theorem fieldCRs2_encCSS (f3 : BitVec 3) (imm6 : BitVec 6) (rs2 : Reg) (op2 : BitVec 2) :
    fieldCRs2 (lowHalf (encCSS f3 imm6 rs2 op2)) = rs2 := by
  apply BitVec.eq_of_getLsbD_eq; intro i hi
  interval_cases i <;> simp only [fieldCRs2, encCSS, compressed, lowHalf, BitVec.getLsbD_append, BitVec.getLsbD_extractLsb] <;> simp

theorem fieldCLow_encCIW (f3 : BitVec 3) (imm8 : BitVec 8) (rd : Reg) (op2 : BitVec 2) (h : isPrime rd) :
    fieldCLow (lowHalf (encCIW f3 imm8 rd op2)) = rd := by
  refine Eq.trans (congrArg rp (?_ : _ = prime rd)) (rp_prime h)
  apply BitVec.eq_of_getLsbD_eq; intro i hi
  interval_cases i <;> simp only [encCIW, compressed, lowHalf, prime, BitVec.getLsbD_append, BitVec.getLsbD_extractLsb] <;> simp

theorem fieldCHigh_encCL (f3 high : BitVec 3) (rs1 : Reg) (low2 : BitVec 2) (r : Reg) (op2 : BitVec 2) (h : isPrime rs1) :
    fieldCHigh (lowHalf (encCL f3 high rs1 low2 r op2)) = rs1 := by
  refine Eq.trans (congrArg rp (?_ : _ = prime rs1)) (rp_prime h)
  apply BitVec.eq_of_getLsbD_eq; intro i hi
  interval_cases i <;> simp only [encCL, compressed, lowHalf, prime, BitVec.getLsbD_append, BitVec.getLsbD_extractLsb] <;> simp

theorem fieldCLow_encCL (f3 high : BitVec 3) (rs1 : Reg) (low2 : BitVec 2) (r : Reg) (op2 : BitVec 2) (h : isPrime r) :
    fieldCLow (lowHalf (encCL f3 high rs1 low2 r op2)) = r := by
  refine Eq.trans (congrArg rp (?_ : _ = prime r)) (rp_prime h)
  apply BitVec.eq_of_getLsbD_eq; intro i hi
  interval_cases i <;> simp only [encCL, compressed, lowHalf, prime, BitVec.getLsbD_append, BitVec.getLsbD_extractLsb] <;> simp

theorem fieldCHigh_encCA (f3 : BitVec 3) (b12 : BitVec 1) (f2 : BitVec 2) (rd : Reg) (g2 : BitVec 2) (rs2 : Reg) (op2 : BitVec 2) (h : isPrime rd) :
    fieldCHigh (lowHalf (encCA f3 b12 f2 rd g2 rs2 op2)) = rd := by
  refine Eq.trans (congrArg rp (?_ : _ = prime rd)) (rp_prime h)
  apply BitVec.eq_of_getLsbD_eq; intro i hi
  interval_cases i <;> simp only [encCA, compressed, lowHalf, prime, BitVec.getLsbD_append, BitVec.getLsbD_extractLsb] <;> simp

theorem fieldCLow_encCA (f3 : BitVec 3) (b12 : BitVec 1) (f2 : BitVec 2) (rd : Reg) (g2 : BitVec 2) (rs2 : Reg) (op2 : BitVec 2) (h : isPrime rs2) :
    fieldCLow (lowHalf (encCA f3 b12 f2 rd g2 rs2 op2)) = rs2 := by
  refine Eq.trans (congrArg rp (?_ : _ = prime rs2)) (rp_prime h)
  apply BitVec.eq_of_getLsbD_eq; intro i hi
  interval_cases i <;> simp only [encCA, compressed, lowHalf, prime, BitVec.getLsbD_append, BitVec.getLsbD_extractLsb] <;> simp

theorem fieldCHigh_encCB (f3 high : BitVec 3) (r : Reg) (low : BitVec 5) (op2 : BitVec 2) (h : isPrime r) :
    fieldCHigh (lowHalf (encCB f3 high r low op2)) = r := by
  refine Eq.trans (congrArg rp (?_ : _ = prime r)) (rp_prime h)
  apply BitVec.eq_of_getLsbD_eq; intro i hi
  interval_cases i <;> simp only [encCB, compressed, lowHalf, prime, BitVec.getLsbD_append, BitVec.getLsbD_extractLsb] <;> simp

theorem immI_enc (imm : Word) (rs1 : Reg) (f3 : BitVec 3) (rd : Reg) (op : BitVec 7) (h : fitsSext 12 imm) :
    immI (encI imm rs1 f3 rd op) = imm := by
  refine Eq.trans (congrArg (sext 12) (?_ : _ = imm.setWidth 12)) (sext_of_fits h)
  apply BitVec.eq_of_getLsbD_eq; intro i hi
  interval_cases i <;> simp only [encI, BitVec.getLsbD_append, BitVec.getLsbD_extractLsb, BitVec.getLsbD_setWidth] <;> simp

theorem immS_enc (imm : Word) (rs2 rs1 : Reg) (f3 : BitVec 3) (op : BitVec 7) (h : fitsSext 12 imm) :
    immS (encS imm rs2 rs1 f3 op) = imm := by
  refine Eq.trans (congrArg (sext 12) (?_ : _ = imm.setWidth 12)) (sext_of_fits h)
  apply BitVec.eq_of_getLsbD_eq; intro i hi
  interval_cases i <;> simp only [encS, BitVec.getLsbD_append, BitVec.getLsbD_extractLsb, BitVec.getLsbD_setWidth] <;> simp

theorem immB_enc (imm : Word) (rs2 rs1 : Reg) (f3 : BitVec 3) (op : BitVec 7) (h : fitsSext 13 imm) (h0 : lowZero 1 imm) :
    immB (encB imm rs2 rs1 f3 op) = imm := by
  refine Eq.trans (congrArg (sext 13) (?_ : _ = imm.setWidth 13)) (sext_of_fits h)
  have z := lowZero_bits h0
  apply BitVec.eq_of_getLsbD_eq; intro i hi
  interval_cases i <;> simp only [encB, BitVec.getLsbD_append, BitVec.getLsbD_extractLsb, BitVec.getLsbD_setWidth] <;> simp [z 0 (by decide) (by decide)]

theorem immJ_enc (imm : Word) (rd : Reg) (op : BitVec 7) (h : fitsSext 21 imm) (h0 : lowZero 1 imm) :
    immJ (encJ imm rd op) = imm := by
  refine Eq.trans (congrArg (sext 21) (?_ : _ = imm.setWidth 21)) (sext_of_fits h)
  have z := lowZero_bits h0
  apply BitVec.eq_of_getLsbD_eq; intro i hi
  interval_cases i <;> simp only [encJ, BitVec.getLsbD_append, BitVec.getLsbD_extractLsb, BitVec.getLsbD_setWidth] <;> simp [z 0 (by decide) (by decide)]

theorem immCsri_enc (csr : BitVec 12) (imm : Word) (f3 : BitVec 3) (rd : Reg) (op : BitVec 7) (h : fitsZext 5 imm) :
    immCsri (encCsr csr (imm.extractLsb 4 0) f3 rd op) = imm := by
  refine Eq.trans (congrArg (zext 5) (?_ : _ = imm.setWidth 5)) (zext_of_fits h)
  apply BitVec.eq_of_getLsbD_eq; intro i hi
  interval_cases i <;> simp only [encCsr, BitVec.getLsbD_append, BitVec.getLsbD_extractLsb, BitVec.getLsbD_setWidth] <;> simp

theorem immCI_enc (f3 : BitVec 3) (imm : Word) (rd : Reg) (op2 : BitVec 2) (h : fitsSext 6 imm) :
    immCI (lowHalf (encCI f3 (imm.extractLsb 5 5) rd (imm.extractLsb 4 0) op2)) = imm := by
  refine Eq.trans (congrArg (sext 6) (?_ : _ = imm.setWidth 6)) (sext_of_fits h)
  apply BitVec.eq_of_getLsbD_eq; intro i hi
  interval_cases i <;> simp only [encCI, compressed, lowHalf, prime, BitVec.getLsbD_append, BitVec.getLsbD_extractLsb, BitVec.getLsbD_setWidth] <;> simp

theorem immCLui_enc (f3 : BitVec 3) (imm : Word) (rd : Reg) (op2 : BitVec 2) (h : fitsSext 18 imm) (h0 : lowZero 12 imm) :
    immCLui (lowHalf (encCI f3 (imm.extractLsb 17 17) rd (imm.extractLsb 16 12) op2)) = imm := by
  refine Eq.trans (congrArg (sext 18) (?_ : _ = imm.setWidth 18)) (sext_of_fits h)
  have z := lowZero_bits h0
  apply BitVec.eq_of_getLsbD_eq; intro i hi
  interval_cases i <;> simp only [encCI, compressed, lowHalf, prime, BitVec.getLsbD_append, BitVec.getLsbD_extractLsb, BitVec.getLsbD_setWidth] <;> simp [z 0 (by decide) (by decide), z 1 (by decide) (by decide), z 2 (by decide) (by decide), z 3 (by decide) (by decide), z 4 (by decide) (by decide), z 5 (by decide) (by decide), z 6 (by decide) (by decide), z 7 (by decide) (by decide), z 8 (by decide) (by decide), z 9 (by decide) (by decide), z 10 (by decide) (by decide), z 11 (by decide) (by decide)]

theorem immCAddi16sp_enc (f3 : BitVec 3) (imm : Word) (rd : Reg) (op2 : BitVec 2) (h : fitsSext 10 imm) (h0 : lowZero 4 imm) :
    immCAddi16sp (lowHalf (encCI f3 (imm.extractLsb 9 9) rd (imm.extractLsb 4 4 ++ imm.extractLsb 6 6 ++ imm.extractLsb 8 7 ++ imm.extractLsb 5 5) op2)) = imm := by
  refine Eq.trans (congrArg (sext 10) (?_ : _ = imm.setWidth 10)) (sext_of_fits h)
  have z := lowZero_bits h0
  apply BitVec.eq_of_getLsbD_eq; intro i hi
  interval_cases i <;> simp only [encCI, compressed, lowHalf, prime, BitVec.getLsbD_append, BitVec.getLsbD_extractLsb, BitVec.getLsbD_setWidth] <;> simp [z 0 (by decide) (by decide), z 1 (by decide) (by decide), z 2 (by decide) (by decide), z 3 (by decide) (by decide)]

theorem immCLwsp_enc (f3 : BitVec 3) (imm : Word) (rd : Reg) (op2 : BitVec 2) (h : fitsZext 8 imm) (h0 : lowZero 2 imm) :
    immCLwsp (lowHalf (encCI f3 (imm.extractLsb 5 5) rd (imm.extractLsb 4 2 ++ imm.extractLsb 7 6) op2)) = imm := by
  refine Eq.trans (congrArg (zext 8) (?_ : _ = imm.setWidth 8)) (zext_of_fits h)
  have z := lowZero_bits h0
  apply BitVec.eq_of_getLsbD_eq; intro i hi
  interval_cases i <;> simp only [encCI, compressed, lowHalf, prime, BitVec.getLsbD_append, BitVec.getLsbD_extractLsb, BitVec.getLsbD_setWidth] <;> simp [z 0 (by decide) (by decide), z 1 (by decide) (by decide)]

theorem immCLdsp_enc (f3 : BitVec 3) (imm : Word) (rd : Reg) (op2 : BitVec 2) (h : fitsZext 9 imm) (h0 : lowZero 3 imm) :
    immCLdsp (lowHalf (encCI f3 (imm.extractLsb 5 5) rd (imm.extractLsb 4 3 ++ imm.extractLsb 8 6) op2)) = imm := by
  refine Eq.trans (congrArg (zext 9) (?_ : _ = imm.setWidth 9)) (zext_of_fits h)
  have z := lowZero_bits h0
  apply BitVec.eq_of_getLsbD_eq; intro i hi
  interval_cases i <;> simp only [encCI, compressed, lowHalf, prime, BitVec.getLsbD_append, BitVec.getLsbD_extractLsb, BitVec.getLsbD_setWidth] <;> simp [z 0 (by decide) (by decide), z 1 (by decide) (by decide), z 2 (by decide) (by decide)]

theorem immCSwsp_enc (f3 : BitVec 3) (imm : Word) (rs2 : Reg) (op2 : BitVec 2) (h : fitsZext 8 imm) (h0 : lowZero 2 imm) :
    immCSwsp (lowHalf (encCSS f3 (imm.extractLsb 5 2 ++ imm.extractLsb 7 6) rs2 op2)) = imm := by
  refine Eq.trans (congrArg (zext 8) (?_ : _ = imm.setWidth 8)) (zext_of_fits h)
  have z := lowZero_bits h0
  apply BitVec.eq_of_getLsbD_eq; intro i hi
  interval_cases i <;> simp only [encCSS, compressed, lowHalf, prime, BitVec.getLsbD_append, BitVec.getLsbD_extractLsb, BitVec.getLsbD_setWidth] <;> simp [z 0 (by decide) (by decide), z 1 (by decide) (by decide)]

theorem immCSdsp_enc (f3 : BitVec 3) (imm : Word) (rs2 : Reg) (op2 : BitVec 2) (h : fitsZext 9 imm) (h0 : lowZero 3 imm) :
    immCSdsp (lowHalf (encCSS f3 (imm.extractLsb 5 3 ++ imm.extractLsb 8 6) rs2 op2)) = imm := by
  refine Eq.trans (congrArg (zext 9) (?_ : _ = imm.setWidth 9)) (zext_of_fits h)
  have z := lowZero_bits h0
  apply BitVec.eq_of_getLsbD_eq; intro i hi
  interval_cases i <;> simp only [encCSS, compressed, lowHalf, prime, BitVec.getLsbD_append, BitVec.getLsbD_extractLsb, BitVec.getLsbD_setWidth] <;> simp [z 0 (by decide) (by decide), z 1 (by decide) (by decide), z 2 (by decide) (by decide)]

theorem immCIW_enc (f3 : BitVec 3) (imm : Word) (rd : Reg) (op2 : BitVec 2) (h : fitsZext 10 imm) (h0 : lowZero 2 imm) :
    immCIW (lowHalf (encCIW f3 (imm.extractLsb 5 4 ++ imm.extractLsb 9 6 ++ imm.extractLsb 2 2 ++ imm.extractLsb 3 3) rd op2)) = imm := by
  refine Eq.trans (congrArg (zext 10) (?_ : _ = imm.setWidth 10)) (zext_of_fits h)
  have z := lowZero_bits h0
  apply BitVec.eq_of_getLsbD_eq; intro i hi
  interval_cases i <;> simp only [encCIW, compressed, lowHalf, prime, BitVec.getLsbD_append, BitVec.getLsbD_extractLsb, BitVec.getLsbD_setWidth] <;> simp [z 0 (by decide) (by decide), z 1 (by decide) (by decide)]

theorem immCW_enc (f3 : BitVec 3) (imm : Word) (rs1 r : Reg) (op2 : BitVec 2) (h : fitsZext 7 imm) (h0 : lowZero 2 imm) :
    immCW (lowHalf (encCL f3 (imm.extractLsb 5 3) rs1 (imm.extractLsb 2 2 ++ imm.extractLsb 6 6) r op2)) = imm := by
  refine Eq.trans (congrArg (zext 7) (?_ : _ = imm.setWidth 7)) (zext_of_fits h)
  have z := lowZero_bits h0
  apply BitVec.eq_of_getLsbD_eq; intro i hi
  interval_cases i <;> simp only [encCL, compressed, lowHalf, prime, BitVec.getLsbD_append, BitVec.getLsbD_extractLsb, BitVec.getLsbD_setWidth] <;> simp [z 0 (by decide) (by decide), z 1 (by decide) (by decide)]

theorem immCD_enc (f3 : BitVec 3) (imm : Word) (rs1 r : Reg) (op2 : BitVec 2) (h : fitsZext 8 imm) (h0 : lowZero 3 imm) :
    immCD (lowHalf (encCL f3 (imm.extractLsb 5 3) rs1 (imm.extractLsb 7 6) r op2)) = imm := by
  refine Eq.trans (congrArg (zext 8) (?_ : _ = imm.setWidth 8)) (zext_of_fits h)
  have z := lowZero_bits h0
  apply BitVec.eq_of_getLsbD_eq; intro i hi
  interval_cases i <;> simp only [encCL, compressed, lowHalf, prime, BitVec.getLsbD_append, BitVec.getLsbD_extractLsb, BitVec.getLsbD_setWidth] <;> simp [z 0 (by decide) (by decide), z 1 (by decide) (by decide), z 2 (by decide) (by decide)]

theorem immCAndi_enc (f3 : BitVec 3) (imm : Word) (f2 : BitVec 2) (r : Reg) (op2 : BitVec 2) (h : fitsSext 6 imm) :
    immCI (lowHalf (encCB f3 (imm.extractLsb 5 5 ++ f2) r (imm.extractLsb 4 0) op2)) = imm := by
  refine Eq.trans (congrArg (sext 6) (?_ : _ = imm.setWidth 6)) (sext_of_fits h)
  apply BitVec.eq_of_getLsbD_eq; intro i hi
  interval_cases i <;> simp only [encCB, compressed, lowHalf, prime, BitVec.getLsbD_append, BitVec.getLsbD_extractLsb, BitVec.getLsbD_setWidth] <;> simp

theorem immCB_enc (f3 : BitVec 3) (imm : Word) (r : Reg) (op2 : BitVec 2) (h : fitsSext 9 imm) (h0 : lowZero 1 imm) :
    immCB (lowHalf (encCB f3 (imm.extractLsb 8 8 ++ imm.extractLsb 4 3) r (imm.extractLsb 7 6 ++ imm.extractLsb 2 1 ++ imm.extractLsb 5 5) op2)) = imm := by
  refine Eq.trans (congrArg (sext 9) (?_ : _ = imm.setWidth 9)) (sext_of_fits h)
  have z := lowZero_bits h0
  apply BitVec.eq_of_getLsbD_eq; intro i hi
  interval_cases i <;> simp only [encCB, compressed, lowHalf, prime, BitVec.getLsbD_append, BitVec.getLsbD_extractLsb, BitVec.getLsbD_setWidth] <;> simp [z 0 (by decide) (by decide)]

theorem immCJ_enc (f3 : BitVec 3) (imm : Word) (op2 : BitVec 2) (h : fitsSext 12 imm) (h0 : lowZero 1 imm) :
    immCJ (lowHalf (encCJ f3 imm op2)) = imm := by
  refine Eq.trans (congrArg (sext 12) (?_ : _ = imm.setWidth 12)) (sext_of_fits h)
  have z := lowZero_bits h0
  apply BitVec.eq_of_getLsbD_eq; intro i hi
  interval_cases i <;> simp only [encCJ, compressed, lowHalf, prime, BitVec.getLsbD_append, BitVec.getLsbD_extractLsb, BitVec.getLsbD_setWidth] <;> simp [z 0 (by decide) (by decide)]

theorem immU_enc (imm : Word) (rd : Reg) (op : BitVec 7) (h : lowZero 12 imm) :
    immU (encU imm rd op) = imm := by
  have z := lowZero_bits h
  apply BitVec.eq_of_getLsbD_eq; intro i hi
  interval_cases i <;> simp only [immU, encU, BitVec.getLsbD_append, BitVec.getLsbD_extractLsb] <;> simp [z 0 (by decide) (by decide), z 1 (by decide) (by decide), z 2 (by decide) (by decide), z 3 (by decide) (by decide), z 4 (by decide) (by decide), z 5 (by decide) (by decide), z 6 (by decide) (by decide), z 7 (by decide) (by decide), z 8 (by decide) (by decide), z 9 (by decide) (by decide), z 10 (by decide) (by decide), z 11 (by decide) (by decide)]

theorem shamt5_enc (f7 : BitVec 7) (shamt : BitVec 6) (rs1 : Reg) (f3 : BitVec 3) (rd : Reg) (op : BitVec 7) (h : fitsFive shamt) :
    shamt5 (encSh5 f7 shamt rs1 f3 rd op) = shamt := by
  refine Eq.trans (congrArg (BitVec.setWidth 6) (?_ : _ = shamt.extractLsb 4 0)) (setWidth_of_fitsFive h)
  apply BitVec.eq_of_getLsbD_eq; intro i hi
  interval_cases i <;> simp only [encSh5, BitVec.getLsbD_append, BitVec.getLsbD_extractLsb] <;> simp

theorem shamtC_encCI (f3 : BitVec 3) (shamt : BitVec 6) (rd : Reg) (op2 : BitVec 2) :
    shamtC (lowHalf (encCI f3 (shamt.extractLsb 5 5) rd (shamt.extractLsb 4 0) op2)) = shamt := by
  apply BitVec.eq_of_getLsbD_eq; intro i hi
  interval_cases i <;> simp only [shamtC, encCI, compressed, lowHalf, BitVec.getLsbD_append, BitVec.getLsbD_extractLsb] <;> simp

theorem shamtC_encCI5 (f3 : BitVec 3) (shamt : BitVec 6) (rd : Reg) (op2 : BitVec 2) (h : fitsFive shamt) :
    shamtC (lowHalf (encCI f3 0#1 rd (shamt.extractLsb 4 0) op2)) = shamt := by
  conv => lhs; rw [← bit5_of_fitsFive h]
  exact shamtC_encCI ..

theorem shamtC_encCB (f3 : BitVec 3) (shamt : BitVec 6) (f2 : BitVec 2) (r : Reg) (op2 : BitVec 2) :
    shamtC (lowHalf (encCB f3 (shamt.extractLsb 5 5 ++ f2) r (shamt.extractLsb 4 0) op2)) = shamt := by
  apply BitVec.eq_of_getLsbD_eq; intro i hi
  interval_cases i <;> simp only [shamtC, encCB, compressed, lowHalf, BitVec.getLsbD_append, BitVec.getLsbD_extractLsb] <;> simp

theorem shamtC_encCB5 (f3 : BitVec 3) (shamt : BitVec 6) (f2 : BitVec 2) (r : Reg) (op2 : BitVec 2) (h : fitsFive shamt) :
    shamtC (lowHalf (encCB f3 (0#1 ++ f2) r (shamt.extractLsb 4 0) op2)) = shamt := by
  conv => lhs; rw [← bit5_of_fitsFive h]
  exact shamtC_encCB ..

end Sys2Proof.Laws
end

