-- ==== Sys2Proof/Laws/Operands.lean ====
section
/-! SUPPORT. The formats bit by bit, the other way: laying out the operands extracted from a word gives back the word's operand
bits, and an extracted operand is one that its format can carry. -/

namespace Sys2Proof.Laws

set_option linter.unusedSimpArgs false

open Sys2Proof.Machine

theorem beq_of_eq {n : Nat} {a b : BitVec n} (h : a = b) : (a == b) = true := beq_iff_eq.mpr h

theorem fitsSext_sext {n : Nat} (v : BitVec n) (hn : n ≤ 32 := by decide) : fitsSext n (sext n v) = true := by
  refine beq_of_eq ?_
  unfold sext
  rw [show (v.signExtend 32).setWidth n = v by
    apply BitVec.eq_of_getLsbD_eq; intro i hi
    rw [BitVec.getLsbD_setWidth, BitVec.getLsbD_signExtend]
    simp [hi, show i < 32 by omega]]

theorem fitsZext_zext {n : Nat} (v : BitVec n) (hn : n ≤ 32 := by decide) : fitsZext n (zext n v) = true := by
  refine beq_of_eq ?_
  unfold zext
  rw [show (v.setWidth 32).setWidth n = v by
    apply BitVec.eq_of_getLsbD_eq; intro i hi
    simp [BitVec.getLsbD_setWidth, hi, show i < 32 by omega]]

/-- A word is its masked part and the rest: two words that agree under a mask and under its complement are equal. -/
theorem eq_of_masks {a b m : Word} (h : a &&& m = b &&& m) (h' : a &&& ~~~m = b &&& ~~~m) : a = b := by
  apply BitVec.eq_of_getLsbD_eq; intro i hi
  have e := congrArg (BitVec.getLsbD · i) h
  have e' := congrArg (BitVec.getLsbD · i) h'
  simp only [BitVec.getLsbD_and, BitVec.getLsbD_not, hi, decide_true, Bool.true_and] at e e'
  cases hm : m.getLsbD i <;> simp_all

theorem operand_R (w : Word) (f7 : BitVec 7) (f3 : BitVec 3) (op : BitVec 7) :
    encR f7 (fieldRs2 w) (fieldRs1 w) f3 (fieldRd w) op &&& ~~~0xFE00707F#32 = w &&& ~~~0xFE00707F#32 := by
  apply BitVec.eq_of_getLsbD_eq; intro i hi
  interval_cases i <;> simp only [encR, fieldRs2, fieldRs1, fieldRd, BitVec.getLsbD_append, BitVec.getLsbD_extractLsb, BitVec.getLsbD_and, BitVec.getLsbD_signExtend, BitVec.getLsbD_setWidth] <;> simp

theorem operand_R2 (w : Word) (f7 : BitVec 7) (rs2 : Reg) (f3 : BitVec 3) (op : BitVec 7) :
    encR f7 rs2 (fieldRs1 w) f3 (fieldRd w) op &&& ~~~0xFFF0707F#32 = w &&& ~~~0xFFF0707F#32 := by
  apply BitVec.eq_of_getLsbD_eq; intro i hi
  interval_cases i <;> simp only [encR, fieldRs1, fieldRd, BitVec.getLsbD_append, BitVec.getLsbD_extractLsb, BitVec.getLsbD_and, BitVec.getLsbD_signExtend, BitVec.getLsbD_setWidth] <;> simp

theorem operand_Rs (w : Word) (f7 : BitVec 7) (f3 : BitVec 3) (rd : Reg) (op : BitVec 7) :
    encR f7 (fieldRs2 w) (fieldRs1 w) f3 rd op &&& ~~~0xFE007FFF#32 = w &&& ~~~0xFE007FFF#32 := by
  apply BitVec.eq_of_getLsbD_eq; intro i hi
  interval_cases i <;> simp only [encR, fieldRs2, fieldRs1, BitVec.getLsbD_append, BitVec.getLsbD_extractLsb, BitVec.getLsbD_and, BitVec.getLsbD_signExtend, BitVec.getLsbD_setWidth] <;> simp

theorem operand_RRm (w : Word) (f7 op : BitVec 7) :
    encR f7 (fieldRs2 w) (fieldRs1 w) (fieldRm w) (fieldRd w) op &&& ~~~0xFE00007F#32 = w &&& ~~~0xFE00007F#32 := by
  apply BitVec.eq_of_getLsbD_eq; intro i hi
  interval_cases i <;> simp only [encR, fieldRs2, fieldRs1, fieldRm, fieldRd, BitVec.getLsbD_append, BitVec.getLsbD_extractLsb, BitVec.getLsbD_and, BitVec.getLsbD_signExtend, BitVec.getLsbD_setWidth] <;> simp

theorem operand_R2Rm (w : Word) (f7 : BitVec 7) (rs2 : Reg) (op : BitVec 7) :
    encR f7 rs2 (fieldRs1 w) (fieldRm w) (fieldRd w) op &&& ~~~0xFFF0007F#32 = w &&& ~~~0xFFF0007F#32 := by
  apply BitVec.eq_of_getLsbD_eq; intro i hi
  interval_cases i <;> simp only [encR, fieldRs1, fieldRm, fieldRd, BitVec.getLsbD_append, BitVec.getLsbD_extractLsb, BitVec.getLsbD_and, BitVec.getLsbD_signExtend, BitVec.getLsbD_setWidth] <;> simp

theorem operand_R4Rm (w : Word) (f2 : BitVec 2) (op : BitVec 7) :
    encR4 (fieldRs3 w) f2 (fieldRs2 w) (fieldRs1 w) (fieldRm w) (fieldRd w) op &&& ~~~0x0600007F#32 = w &&& ~~~0x0600007F#32 := by
  apply BitVec.eq_of_getLsbD_eq; intro i hi
  interval_cases i <;> simp only [encR4, fieldRs3, fieldRs2, fieldRs1, fieldRm, fieldRd, BitVec.getLsbD_append, BitVec.getLsbD_extractLsb, BitVec.getLsbD_and, BitVec.getLsbD_signExtend, BitVec.getLsbD_setWidth] <;> simp

theorem operand_Amo (w : Word) (f5 : BitVec 5) (f3 : BitVec 3) (op : BitVec 7) :
    encAmo f5 (w.getLsbD 26) (w.getLsbD 25) (fieldRs2 w) (fieldRs1 w) f3 (fieldRd w) op &&& ~~~0xF800707F#32 = w &&& ~~~0xF800707F#32 := by
  apply BitVec.eq_of_getLsbD_eq; intro i hi
  interval_cases i <;> simp only [encAmo, fieldRs2, fieldRs1, fieldRd, BitVec.getLsbD_append, BitVec.getLsbD_extractLsb, BitVec.getLsbD_and, BitVec.getLsbD_signExtend, BitVec.getLsbD_setWidth] <;> simp

theorem operand_Lr (w : Word) (f5 : BitVec 5) (rs2 : Reg) (f3 : BitVec 3) (op : BitVec 7) :
    encAmo f5 (w.getLsbD 26) (w.getLsbD 25) rs2 (fieldRs1 w) f3 (fieldRd w) op &&& ~~~0xF9F0707F#32 = w &&& ~~~0xF9F0707F#32 := by
  apply BitVec.eq_of_getLsbD_eq; intro i hi
  interval_cases i <;> simp only [encAmo, fieldRs1, fieldRd, BitVec.getLsbD_append, BitVec.getLsbD_extractLsb, BitVec.getLsbD_and, BitVec.getLsbD_signExtend, BitVec.getLsbD_setWidth] <;> simp

theorem operand_Csr (w : Word) (f3 : BitVec 3) (op : BitVec 7) :
    encCsr (fieldCsr w) (fieldRs1 w) f3 (fieldRd w) op &&& ~~~0x0000707F#32 = w &&& ~~~0x0000707F#32 := by
  apply BitVec.eq_of_getLsbD_eq; intro i hi
  interval_cases i <;> simp only [encCsr, fieldCsr, fieldRs1, fieldRd, BitVec.getLsbD_append, BitVec.getLsbD_extractLsb, BitVec.getLsbD_and, BitVec.getLsbD_signExtend, BitVec.getLsbD_setWidth] <;> simp

theorem operand_Csri (w : Word) (f3 : BitVec 3) (op : BitVec 7) :
    encCsr (fieldCsr w) ((immCsri w).extractLsb 4 0) f3 (fieldRd w) op &&& ~~~0x0000707F#32 = w &&& ~~~0x0000707F#32 := by
  apply BitVec.eq_of_getLsbD_eq; intro i hi
  interval_cases i <;> simp only [encCsr, fieldCsr, immCsri, zext, fieldRd, BitVec.getLsbD_append, BitVec.getLsbD_extractLsb, BitVec.getLsbD_and, BitVec.getLsbD_signExtend, BitVec.getLsbD_setWidth] <;> simp

theorem operand_I (w : Word) (f3 : BitVec 3) (op : BitVec 7) :
    encI (immI w) (fieldRs1 w) f3 (fieldRd w) op &&& ~~~0x0000707F#32 = w &&& ~~~0x0000707F#32 := by
  apply BitVec.eq_of_getLsbD_eq; intro i hi
  interval_cases i <;> simp only [encI, immI, sext, fieldRs1, fieldRd, BitVec.getLsbD_append, BitVec.getLsbD_extractLsb, BitVec.getLsbD_and, BitVec.getLsbD_signExtend, BitVec.getLsbD_setWidth] <;> simp

theorem operand_Sh5 (w : Word) (f7 : BitVec 7) (f3 : BitVec 3) (op : BitVec 7) :
    encSh5 f7 (shamt5 w) (fieldRs1 w) f3 (fieldRd w) op &&& ~~~0xFE00707F#32 = w &&& ~~~0xFE00707F#32 := by
  apply BitVec.eq_of_getLsbD_eq; intro i hi
  interval_cases i <;> simp only [encSh5, shamt5, fieldRs1, fieldRd, BitVec.getLsbD_append, BitVec.getLsbD_extractLsb, BitVec.getLsbD_and, BitVec.getLsbD_signExtend, BitVec.getLsbD_setWidth] <;> simp

theorem operand_Sh6 (w : Word) (f6 : BitVec 6) (f3 : BitVec 3) (op : BitVec 7) :
    encSh6 f6 (shamt6 w) (fieldRs1 w) f3 (fieldRd w) op &&& ~~~0xFC00707F#32 = w &&& ~~~0xFC00707F#32 := by
  apply BitVec.eq_of_getLsbD_eq; intro i hi
  interval_cases i <;> simp only [encSh6, shamt6, fieldRs1, fieldRd, BitVec.getLsbD_append, BitVec.getLsbD_extractLsb, BitVec.getLsbD_and, BitVec.getLsbD_signExtend, BitVec.getLsbD_setWidth] <;> simp

theorem operand_S (w : Word) (f3 : BitVec 3) (op : BitVec 7) :
    encS (immS w) (fieldRs2 w) (fieldRs1 w) f3 op &&& ~~~0x0000707F#32 = w &&& ~~~0x0000707F#32 := by
  apply BitVec.eq_of_getLsbD_eq; intro i hi
  interval_cases i <;> simp only [encS, immS, sext, fieldRs2, fieldRs1, BitVec.getLsbD_append, BitVec.getLsbD_extractLsb, BitVec.getLsbD_and, BitVec.getLsbD_signExtend, BitVec.getLsbD_setWidth] <;> simp

theorem operand_B (w : Word) (f3 : BitVec 3) (op : BitVec 7) :
    encB (immB w) (fieldRs2 w) (fieldRs1 w) f3 op &&& ~~~0x0000707F#32 = w &&& ~~~0x0000707F#32 := by
  apply BitVec.eq_of_getLsbD_eq; intro i hi
  interval_cases i <;> simp only [encB, immB, sext, fieldRs2, fieldRs1, BitVec.getLsbD_append, BitVec.getLsbD_extractLsb, BitVec.getLsbD_and, BitVec.getLsbD_signExtend, BitVec.getLsbD_setWidth] <;> simp

theorem operand_U (w : Word) (op : BitVec 7) :
    encU (immU w) (fieldRd w) op &&& ~~~0x0000007F#32 = w &&& ~~~0x0000007F#32 := by
  apply BitVec.eq_of_getLsbD_eq; intro i hi
  interval_cases i <;> simp only [encU, immU, fieldRd, BitVec.getLsbD_append, BitVec.getLsbD_extractLsb, BitVec.getLsbD_and, BitVec.getLsbD_signExtend, BitVec.getLsbD_setWidth] <;> simp

theorem operand_J (w : Word) (op : BitVec 7) :
    encJ (immJ w) (fieldRd w) op &&& ~~~0x0000007F#32 = w &&& ~~~0x0000007F#32 := by
  apply BitVec.eq_of_getLsbD_eq; intro i hi
  interval_cases i <;> simp only [encJ, immJ, sext, fieldRd, BitVec.getLsbD_append, BitVec.getLsbD_extractLsb, BitVec.getLsbD_and, BitVec.getLsbD_signExtend, BitVec.getLsbD_setWidth] <;> simp

theorem operand_CR (c : Half) (f3 : BitVec 3) (b12 : BitVec 1) (op2 : BitVec 2) :
    encCR f3 b12 (fieldCRd c) (fieldCRs2 c) op2 &&& ~~~0x0000F003#32 =
      compressed c &&& ~~~0x0000F003#32 := by
  apply BitVec.eq_of_getLsbD_eq; intro i hi
  interval_cases i <;> simp only [encCR, compressed, fieldCRd, fieldCRs2, BitVec.getLsbD_append, BitVec.getLsbD_extractLsb, BitVec.getLsbD_and, BitVec.getLsbD_signExtend, BitVec.getLsbD_setWidth] <;> simp

theorem operand_CRJr (c : Half) (f3 : BitVec 3) (b12 : BitVec 1) (rs2 : Reg) (op2 : BitVec 2) :
    encCR f3 b12 (fieldCRd c) rs2 op2 &&& ~~~0x0000F07F#32 =
      compressed c &&& ~~~0x0000F07F#32 := by
  apply BitVec.eq_of_getLsbD_eq; intro i hi
  interval_cases i <;> simp only [encCR, compressed, fieldCRd, BitVec.getLsbD_append, BitVec.getLsbD_extractLsb, BitVec.getLsbD_and, BitVec.getLsbD_signExtend, BitVec.getLsbD_setWidth] <;> simp

theorem operand_CI (c : Half) (f3 : BitVec 3) (op2 : BitVec 2) :
    encCI f3 ((immCI c).extractLsb 5 5) (fieldCRd c) ((immCI c).extractLsb 4 0) op2 &&& ~~~0x0000E003#32 =
      compressed c &&& ~~~0x0000E003#32 := by
  apply BitVec.eq_of_getLsbD_eq; intro i hi
  interval_cases i <;> simp only [encCI, compressed, immCI, sext, fieldCRd, BitVec.getLsbD_append, BitVec.getLsbD_extractLsb, BitVec.getLsbD_and, BitVec.getLsbD_signExtend, BitVec.getLsbD_setWidth] <;> simp

theorem operand_CILui (c : Half) (f3 : BitVec 3) (op2 : BitVec 2) :
    encCI f3 ((immCLui c).extractLsb 17 17) (fieldCRd c) ((immCLui c).extractLsb 16 12) op2 &&& ~~~0x0000E003#32 =
      compressed c &&& ~~~0x0000E003#32 := by
  apply BitVec.eq_of_getLsbD_eq; intro i hi
  interval_cases i <;> simp only [encCI, compressed, immCLui, sext, fieldCRd, BitVec.getLsbD_append, BitVec.getLsbD_extractLsb, BitVec.getLsbD_and, BitVec.getLsbD_signExtend, BitVec.getLsbD_setWidth] <;> simp

theorem operand_CIAddi16sp (c : Half) (f3 : BitVec 3) (rd : Reg) (op2 : BitVec 2) :
    encCI f3 ((immCAddi16sp c).extractLsb 9 9) rd ((immCAddi16sp c).extractLsb 4 4 ++ (immCAddi16sp c).extractLsb 6 6 ++ (immCAddi16sp c).extractLsb 8 7 ++ (immCAddi16sp c).extractLsb 5 5) op2 &&& ~~~0x0000EF83#32 =
      compressed c &&& ~~~0x0000EF83#32 := by
  apply BitVec.eq_of_getLsbD_eq; intro i hi
  interval_cases i <;> simp only [encCI, compressed, immCAddi16sp, sext, BitVec.getLsbD_append, BitVec.getLsbD_extractLsb, BitVec.getLsbD_and, BitVec.getLsbD_signExtend, BitVec.getLsbD_setWidth] <;> simp

theorem operand_CISh (c : Half) (f3 : BitVec 3) (op2 : BitVec 2) :
    encCI f3 ((shamtC c).extractLsb 5 5) (fieldCRd c) ((shamtC c).extractLsb 4 0) op2 &&& ~~~0x0000E003#32 =
      compressed c &&& ~~~0x0000E003#32 := by
  apply BitVec.eq_of_getLsbD_eq; intro i hi
  interval_cases i <;> simp only [encCI, compressed, shamtC, fieldCRd, BitVec.getLsbD_append, BitVec.getLsbD_extractLsb, BitVec.getLsbD_and, BitVec.getLsbD_signExtend, BitVec.getLsbD_setWidth] <;> simp

theorem operand_CISh5 (c : Half) (f3 : BitVec 3) (b12 : BitVec 1) (op2 : BitVec 2) :
    encCI f3 b12 (fieldCRd c) ((shamtC c).extractLsb 4 0) op2 &&& ~~~0x0000F003#32 =
      compressed c &&& ~~~0x0000F003#32 := by
  apply BitVec.eq_of_getLsbD_eq; intro i hi
  interval_cases i <;> simp only [encCI, compressed, shamtC, fieldCRd, BitVec.getLsbD_append, BitVec.getLsbD_extractLsb, BitVec.getLsbD_and, BitVec.getLsbD_signExtend, BitVec.getLsbD_setWidth] <;> simp

theorem operand_CILwsp (c : Half) (f3 : BitVec 3) (op2 : BitVec 2) :
    encCI f3 ((immCLwsp c).extractLsb 5 5) (fieldCRd c) ((immCLwsp c).extractLsb 4 2 ++ (immCLwsp c).extractLsb 7 6) op2 &&& ~~~0x0000E003#32 =
      compressed c &&& ~~~0x0000E003#32 := by
  apply BitVec.eq_of_getLsbD_eq; intro i hi
  interval_cases i <;> simp only [encCI, compressed, immCLwsp, zext, fieldCRd, BitVec.getLsbD_append, BitVec.getLsbD_extractLsb, BitVec.getLsbD_and, BitVec.getLsbD_signExtend, BitVec.getLsbD_setWidth] <;> simp

theorem operand_CILdsp (c : Half) (f3 : BitVec 3) (op2 : BitVec 2) :
    encCI f3 ((immCLdsp c).extractLsb 5 5) (fieldCRd c) ((immCLdsp c).extractLsb 4 3 ++ (immCLdsp c).extractLsb 8 6) op2 &&& ~~~0x0000E003#32 =
      compressed c &&& ~~~0x0000E003#32 := by
  apply BitVec.eq_of_getLsbD_eq; intro i hi
  interval_cases i <;> simp only [encCI, compressed, immCLdsp, zext, fieldCRd, BitVec.getLsbD_append, BitVec.getLsbD_extractLsb, BitVec.getLsbD_and, BitVec.getLsbD_signExtend, BitVec.getLsbD_setWidth] <;> simp

theorem operand_CSwsp (c : Half) (f3 : BitVec 3) (op2 : BitVec 2) :
    encCSS f3 ((immCSwsp c).extractLsb 5 2 ++ (immCSwsp c).extractLsb 7 6) (fieldCRs2 c) op2 &&& ~~~0x0000E003#32 =
      compressed c &&& ~~~0x0000E003#32 := by
  apply BitVec.eq_of_getLsbD_eq; intro i hi
  interval_cases i <;> simp only [encCSS, compressed, immCSwsp, zext, fieldCRs2, BitVec.getLsbD_append, BitVec.getLsbD_extractLsb, BitVec.getLsbD_and, BitVec.getLsbD_signExtend, BitVec.getLsbD_setWidth] <;> simp

theorem operand_CSdsp (c : Half) (f3 : BitVec 3) (op2 : BitVec 2) :
    encCSS f3 ((immCSdsp c).extractLsb 5 3 ++ (immCSdsp c).extractLsb 8 6) (fieldCRs2 c) op2 &&& ~~~0x0000E003#32 =
      compressed c &&& ~~~0x0000E003#32 := by
  apply BitVec.eq_of_getLsbD_eq; intro i hi
  interval_cases i <;> simp only [encCSS, compressed, immCSdsp, zext, fieldCRs2, BitVec.getLsbD_append, BitVec.getLsbD_extractLsb, BitVec.getLsbD_and, BitVec.getLsbD_signExtend, BitVec.getLsbD_setWidth] <;> simp

theorem operand_CIW (c : Half) (f3 : BitVec 3) (op2 : BitVec 2) :
    encCIW f3 ((immCIW c).extractLsb 5 4 ++ (immCIW c).extractLsb 9 6 ++ (immCIW c).extractLsb 2 2 ++ (immCIW c).extractLsb 3 3) (fieldCLow c) op2 &&& ~~~0x0000E003#32 =
      compressed c &&& ~~~0x0000E003#32 := by
  apply BitVec.eq_of_getLsbD_eq; intro i hi
  interval_cases i <;> simp only [encCIW, compressed, prime_rp, immCIW, zext, fieldCLow, BitVec.getLsbD_append, BitVec.getLsbD_extractLsb, BitVec.getLsbD_and, BitVec.getLsbD_signExtend, BitVec.getLsbD_setWidth] <;> simp

theorem operand_CLW (c : Half) (f3 : BitVec 3) (op2 : BitVec 2) :
    encCL f3 ((immCW c).extractLsb 5 3) (fieldCHigh c) ((immCW c).extractLsb 2 2 ++ (immCW c).extractLsb 6 6) (fieldCLow c) op2 &&& ~~~0x0000E003#32 =
      compressed c &&& ~~~0x0000E003#32 := by
  apply BitVec.eq_of_getLsbD_eq; intro i hi
  interval_cases i <;> simp only [encCL, compressed, prime_rp, immCW, zext, fieldCHigh, fieldCLow, BitVec.getLsbD_append, BitVec.getLsbD_extractLsb, BitVec.getLsbD_and, BitVec.getLsbD_signExtend, BitVec.getLsbD_setWidth] <;> simp

theorem operand_CLD (c : Half) (f3 : BitVec 3) (op2 : BitVec 2) :
    encCL f3 ((immCD c).extractLsb 5 3) (fieldCHigh c) ((immCD c).extractLsb 7 6) (fieldCLow c) op2 &&& ~~~0x0000E003#32 =
      compressed c &&& ~~~0x0000E003#32 := by
  apply BitVec.eq_of_getLsbD_eq; intro i hi
  interval_cases i <;> simp only [encCL, compressed, prime_rp, immCD, zext, fieldCHigh, fieldCLow, BitVec.getLsbD_append, BitVec.getLsbD_extractLsb, BitVec.getLsbD_and, BitVec.getLsbD_signExtend, BitVec.getLsbD_setWidth] <;> simp

theorem operand_CA (c : Half) (f3 : BitVec 3) (b12 : BitVec 1) (f2 g2 op2 : BitVec 2) :
    encCA f3 b12 f2 (fieldCHigh c) g2 (fieldCLow c) op2 &&& ~~~0x0000FC63#32 =
      compressed c &&& ~~~0x0000FC63#32 := by
  apply BitVec.eq_of_getLsbD_eq; intro i hi
  interval_cases i <;> simp only [encCA, compressed, prime_rp, fieldCHigh, fieldCLow, BitVec.getLsbD_append, BitVec.getLsbD_extractLsb, BitVec.getLsbD_and, BitVec.getLsbD_signExtend, BitVec.getLsbD_setWidth] <;> simp

theorem operand_CB (c : Half) (f3 : BitVec 3) (op2 : BitVec 2) :
    encCB f3 ((immCB c).extractLsb 8 8 ++ (immCB c).extractLsb 4 3) (fieldCHigh c) ((immCB c).extractLsb 7 6 ++ (immCB c).extractLsb 2 1 ++ (immCB c).extractLsb 5 5) op2 &&& ~~~0x0000E003#32 =
      compressed c &&& ~~~0x0000E003#32 := by
  apply BitVec.eq_of_getLsbD_eq; intro i hi
  interval_cases i <;> simp only [encCB, compressed, prime_rp, immCB, sext, fieldCHigh, BitVec.getLsbD_append, BitVec.getLsbD_extractLsb, BitVec.getLsbD_and, BitVec.getLsbD_signExtend, BitVec.getLsbD_setWidth] <;> simp

theorem operand_CBSh (c : Half) (f3 : BitVec 3) (f2 op2 : BitVec 2) :
    encCB f3 ((shamtC c).extractLsb 5 5 ++ f2) (fieldCHigh c) ((shamtC c).extractLsb 4 0) op2 &&& ~~~0x0000EC03#32 =
      compressed c &&& ~~~0x0000EC03#32 := by
  apply BitVec.eq_of_getLsbD_eq; intro i hi
  interval_cases i <;> simp only [encCB, compressed, prime_rp, shamtC, fieldCHigh, BitVec.getLsbD_append, BitVec.getLsbD_extractLsb, BitVec.getLsbD_and, BitVec.getLsbD_signExtend, BitVec.getLsbD_setWidth] <;> simp

theorem operand_CBSh5 (c : Half) (f3 : BitVec 3) (b12 : BitVec 1) (f2 op2 : BitVec 2) :
    encCB f3 (b12 ++ f2) (fieldCHigh c) ((shamtC c).extractLsb 4 0) op2 &&& ~~~0x0000FC03#32 =
      compressed c &&& ~~~0x0000FC03#32 := by
  apply BitVec.eq_of_getLsbD_eq; intro i hi
  interval_cases i <;> simp only [encCB, compressed, prime_rp, shamtC, fieldCHigh, BitVec.getLsbD_append, BitVec.getLsbD_extractLsb, BitVec.getLsbD_and, BitVec.getLsbD_signExtend, BitVec.getLsbD_setWidth] <;> simp

theorem operand_CAndi (c : Half) (f3 : BitVec 3) (f2 op2 : BitVec 2) :
    encCB f3 ((immCI c).extractLsb 5 5 ++ f2) (fieldCHigh c) ((immCI c).extractLsb 4 0) op2 &&& ~~~0x0000EC03#32 =
      compressed c &&& ~~~0x0000EC03#32 := by
  apply BitVec.eq_of_getLsbD_eq; intro i hi
  interval_cases i <;> simp only [encCB, compressed, prime_rp, immCI, sext, fieldCHigh, BitVec.getLsbD_append, BitVec.getLsbD_extractLsb, BitVec.getLsbD_and, BitVec.getLsbD_signExtend, BitVec.getLsbD_setWidth] <;> simp

theorem operand_CJ (c : Half) (f3 : BitVec 3) (op2 : BitVec 2) :
    encCJ f3 (immCJ c) op2 &&& ~~~0x0000E003#32 =
      compressed c &&& ~~~0x0000E003#32 := by
  apply BitVec.eq_of_getLsbD_eq; intro i hi
  interval_cases i <;> simp only [encCJ, compressed, immCJ, sext, BitVec.getLsbD_append, BitVec.getLsbD_extractLsb, BitVec.getLsbD_and, BitVec.getLsbD_signExtend, BitVec.getLsbD_setWidth] <;> simp

theorem immI_fits (w : Word) :
    fitsSext 12 (immI w) = true := fitsSext_sext _

theorem immS_fits (w : Word) :
    fitsSext 12 (immS w) = true := fitsSext_sext _

theorem immB_fits (w : Word) :
    fitsSext 13 (immB w) = true := fitsSext_sext _

theorem immB_low (w : Word) :
    lowZero 1 (immB w) = true := by
  refine beq_of_eq ?_
  apply BitVec.eq_of_getLsbD_eq; intro i hi
  interval_cases i; simp only [immB, sext, BitVec.getLsbD_append, BitVec.getLsbD_extractLsb, BitVec.getLsbD_and, BitVec.getLsbD_signExtend, BitVec.getLsbD_setWidth]; simp

theorem immJ_fits (w : Word) :
    fitsSext 21 (immJ w) = true := fitsSext_sext _

theorem immJ_low (w : Word) :
    lowZero 1 (immJ w) = true := by
  refine beq_of_eq ?_
  apply BitVec.eq_of_getLsbD_eq; intro i hi
  interval_cases i; simp only [immJ, sext, BitVec.getLsbD_append, BitVec.getLsbD_extractLsb, BitVec.getLsbD_and, BitVec.getLsbD_signExtend, BitVec.getLsbD_setWidth]; simp

theorem immCsri_fits (w : Word) :
    fitsZext 5 (immCsri w) = true := fitsZext_zext _

theorem immU_low (w : Word) :
    lowZero 12 (immU w) = true := by
  refine beq_of_eq ?_
  apply BitVec.eq_of_getLsbD_eq; intro i hi
  interval_cases i <;> simp only [immU, BitVec.getLsbD_append, BitVec.getLsbD_extractLsb, BitVec.getLsbD_and, BitVec.getLsbD_signExtend, BitVec.getLsbD_setWidth] <;> simp

theorem immCI_fits (c : Half) :
    fitsSext 6 (immCI c) = true := fitsSext_sext _

theorem immCLui_fits (c : Half) :
    fitsSext 18 (immCLui c) = true := fitsSext_sext _

theorem immCLui_low (c : Half) :
    lowZero 12 (immCLui c) = true := by
  refine beq_of_eq ?_
  apply BitVec.eq_of_getLsbD_eq; intro i hi
  interval_cases i <;> simp only [immCLui, sext, BitVec.getLsbD_append, BitVec.getLsbD_extractLsb, BitVec.getLsbD_and, BitVec.getLsbD_signExtend, BitVec.getLsbD_setWidth] <;> simp

theorem immCAddi16sp_fits (c : Half) :
    fitsSext 10 (immCAddi16sp c) = true := fitsSext_sext _

theorem immCAddi16sp_low (c : Half) :
    lowZero 4 (immCAddi16sp c) = true := by
  refine beq_of_eq ?_
  apply BitVec.eq_of_getLsbD_eq; intro i hi
  interval_cases i <;> simp only [immCAddi16sp, sext, BitVec.getLsbD_append, BitVec.getLsbD_extractLsb, BitVec.getLsbD_and, BitVec.getLsbD_signExtend, BitVec.getLsbD_setWidth] <;> simp

theorem immCLwsp_fits (c : Half) :
    fitsZext 8 (immCLwsp c) = true := fitsZext_zext _

theorem immCLwsp_low (c : Half) :
    lowZero 2 (immCLwsp c) = true := by
  refine beq_of_eq ?_
  apply BitVec.eq_of_getLsbD_eq; intro i hi
  interval_cases i <;> simp only [immCLwsp, zext, BitVec.getLsbD_append, BitVec.getLsbD_extractLsb, BitVec.getLsbD_and, BitVec.getLsbD_signExtend, BitVec.getLsbD_setWidth] <;> simp

theorem immCLdsp_fits (c : Half) :
    fitsZext 9 (immCLdsp c) = true := fitsZext_zext _

theorem immCLdsp_low (c : Half) :
    lowZero 3 (immCLdsp c) = true := by
  refine beq_of_eq ?_
  apply BitVec.eq_of_getLsbD_eq; intro i hi
  interval_cases i <;> simp only [immCLdsp, zext, BitVec.getLsbD_append, BitVec.getLsbD_extractLsb, BitVec.getLsbD_and, BitVec.getLsbD_signExtend, BitVec.getLsbD_setWidth] <;> simp

theorem immCSwsp_fits (c : Half) :
    fitsZext 8 (immCSwsp c) = true := fitsZext_zext _

theorem immCSwsp_low (c : Half) :
    lowZero 2 (immCSwsp c) = true := by
  refine beq_of_eq ?_
  apply BitVec.eq_of_getLsbD_eq; intro i hi
  interval_cases i <;> simp only [immCSwsp, zext, BitVec.getLsbD_append, BitVec.getLsbD_extractLsb, BitVec.getLsbD_and, BitVec.getLsbD_signExtend, BitVec.getLsbD_setWidth] <;> simp

theorem immCSdsp_fits (c : Half) :
    fitsZext 9 (immCSdsp c) = true := fitsZext_zext _

theorem immCSdsp_low (c : Half) :
    lowZero 3 (immCSdsp c) = true := by
  refine beq_of_eq ?_
  apply BitVec.eq_of_getLsbD_eq; intro i hi
  interval_cases i <;> simp only [immCSdsp, zext, BitVec.getLsbD_append, BitVec.getLsbD_extractLsb, BitVec.getLsbD_and, BitVec.getLsbD_signExtend, BitVec.getLsbD_setWidth] <;> simp

theorem immCIW_fits (c : Half) :
    fitsZext 10 (immCIW c) = true := fitsZext_zext _

theorem immCIW_low (c : Half) :
    lowZero 2 (immCIW c) = true := by
  refine beq_of_eq ?_
  apply BitVec.eq_of_getLsbD_eq; intro i hi
  interval_cases i <;> simp only [immCIW, zext, BitVec.getLsbD_append, BitVec.getLsbD_extractLsb, BitVec.getLsbD_and, BitVec.getLsbD_signExtend, BitVec.getLsbD_setWidth] <;> simp

theorem immCW_fits (c : Half) :
    fitsZext 7 (immCW c) = true := fitsZext_zext _

theorem immCW_low (c : Half) :
    lowZero 2 (immCW c) = true := by
  refine beq_of_eq ?_
  apply BitVec.eq_of_getLsbD_eq; intro i hi
  interval_cases i <;> simp only [immCW, zext, BitVec.getLsbD_append, BitVec.getLsbD_extractLsb, BitVec.getLsbD_and, BitVec.getLsbD_signExtend, BitVec.getLsbD_setWidth] <;> simp

theorem immCD_fits (c : Half) :
    fitsZext 8 (immCD c) = true := fitsZext_zext _

theorem immCD_low (c : Half) :
    lowZero 3 (immCD c) = true := by
  refine beq_of_eq ?_
  apply BitVec.eq_of_getLsbD_eq; intro i hi
  interval_cases i <;> simp only [immCD, zext, BitVec.getLsbD_append, BitVec.getLsbD_extractLsb, BitVec.getLsbD_and, BitVec.getLsbD_signExtend, BitVec.getLsbD_setWidth] <;> simp

theorem immCB_fits (c : Half) :
    fitsSext 9 (immCB c) = true := fitsSext_sext _

theorem immCB_low (c : Half) :
    lowZero 1 (immCB c) = true := by
  refine beq_of_eq ?_
  apply BitVec.eq_of_getLsbD_eq; intro i hi
  interval_cases i; simp only [immCB, sext, BitVec.getLsbD_append, BitVec.getLsbD_extractLsb, BitVec.getLsbD_and, BitVec.getLsbD_signExtend, BitVec.getLsbD_setWidth]; simp

theorem immCJ_fits (c : Half) :
    fitsSext 12 (immCJ c) = true := fitsSext_sext _

theorem immCJ_low (c : Half) :
    lowZero 1 (immCJ c) = true := by
  refine beq_of_eq ?_
  apply BitVec.eq_of_getLsbD_eq; intro i hi
  interval_cases i; simp only [immCJ, sext, BitVec.getLsbD_append, BitVec.getLsbD_extractLsb, BitVec.getLsbD_and, BitVec.getLsbD_signExtend, BitVec.getLsbD_setWidth]; simp

theorem shamt5_fits (w : Word) :
    fitsFive (shamt5 w) = true := by
  have h : ∀ x : BitVec 5, fitsFive (x.setWidth 6) = true := by decide
  exact h _

end Sys2Proof.Laws
end

