-- ==== Sys2Proof/Laws/State.lean ====
section
/-! SUPPORT. One lemma for each field of the state under each update of it. -/

namespace Sys2Proof.Laws

open Sys2Proof.Machine

/-! ## A reset edge -/

@[simp] theorem resetEdge_xlen (s : State) : (resetEdge s).xlen = s.xlen := rfl
@[simp] theorem resetEdge_rom (s : State) : (resetEdge s).rom = s.rom := rfl
@[simp] theorem resetEdge_extSet (s : State) : (resetEdge s).extSet = s.extSet := rfl
@[simp] theorem resetEdge_s1 (s : State) : (resetEdge s).s1 = Stage1.reset := rfl
@[simp] theorem resetEdge_out (s : State) : (resetEdge s).out = Stage2.reset := rfl
@[simp] theorem resetEdge_ports (s : State) : (resetEdge s).ports = s.ports := rfl
@[simp] theorem resetEdge_stimulus (s : State) : (resetEdge s).stimulus = s.stimulus := rfl

/-! ## An enabled edge -/

@[simp] theorem enabledEdge_xlen (w : Word) (s : State) : (enabledEdge w s).xlen = s.xlen := rfl
@[simp] theorem enabledEdge_rom (w : Word) (s : State) : (enabledEdge w s).rom = s.rom := rfl
@[simp] theorem enabledEdge_extSet (w : Word) (s : State) : (enabledEdge w s).extSet = s.extSet := rfl
@[simp] theorem enabledEdge_s1 (w : Word) (s : State) : (enabledEdge w s).s1 = matchSlot s.rom s.ports.inValid w := rfl
@[simp] theorem enabledEdge_out (w : Word) (s : State) : (enabledEdge w s).out = extractSlot s.s1 := rfl
@[simp] theorem enabledEdge_ports (w : Word) (s : State) : (enabledEdge w s).ports = s.ports := rfl
@[simp] theorem enabledEdge_stimulus (w : Word) (s : State) : (enabledEdge w s).stimulus = s.stimulus := rfl

/-! ## Any edge -/

theorem edgeWith_reset {s : State} (w : Word) (h : s.ports.rst = true) : edgeWith w s = resetEdge s := by
  simp [edgeWith, h]

theorem edgeWith_enabled {s : State} (w : Word) (h : s.ports.rst = false) (h' : s.ports.en = true) :
    edgeWith w s = enabledEdge w s := by
  simp [edgeWith, h, h']

theorem edgeWith_stalled {s : State} (w : Word) (h : s.ports.rst = false) (h' : s.ports.en = false) : edgeWith w s = s := by
  simp [edgeWith, h, h']

/-- Everything a clock edge can do: it is a reset edge, an enabled edge or a hold, and the ports say which. -/
theorem edgeWith_cases (w : Word) (s : State) :
    (s.ports.rst = true ∧ edgeWith w s = resetEdge s) ∨
      (s.ports.rst = false ∧ s.ports.en = true ∧ edgeWith w s = enabledEdge w s) ∨
        (s.ports.rst = false ∧ s.ports.en = false ∧ edgeWith w s = s) := by
  cases hr : s.ports.rst
  · cases he : s.ports.en
    · exact .inr (.inr ⟨rfl, rfl, edgeWith_stalled w hr he⟩)
    · exact .inr (.inl ⟨rfl, rfl, edgeWith_enabled w hr he⟩)
  · exact .inl ⟨rfl, edgeWith_reset w hr⟩

@[simp] theorem edgeWith_xlen (w : Word) (s : State) : (edgeWith w s).xlen = s.xlen := by
  rcases edgeWith_cases w s with ⟨_, e⟩ | ⟨_, _, e⟩ | ⟨_, _, e⟩ <;> simp [e]

@[simp] theorem edgeWith_rom (w : Word) (s : State) : (edgeWith w s).rom = s.rom := by
  rcases edgeWith_cases w s with ⟨_, e⟩ | ⟨_, _, e⟩ | ⟨_, _, e⟩ <;> simp [e]

@[simp] theorem edgeWith_extSet (w : Word) (s : State) : (edgeWith w s).extSet = s.extSet := by
  rcases edgeWith_cases w s with ⟨_, e⟩ | ⟨_, _, e⟩ | ⟨_, _, e⟩ <;> simp [e]

@[simp] theorem edgeWith_ports (w : Word) (s : State) : (edgeWith w s).ports = s.ports := by
  rcases edgeWith_cases w s with ⟨_, e⟩ | ⟨_, _, e⟩ | ⟨_, _, e⟩ <;> simp [e]

@[simp] theorem edgeWith_stimulus (w : Word) (s : State) : (edgeWith w s).stimulus = s.stimulus := by
  rcases edgeWith_cases w s with ⟨_, e⟩ | ⟨_, _, e⟩ | ⟨_, _, e⟩ <;> simp [e]

/-! ## The outside world moves on -/

@[simp] theorem nextPorts_xlen (s : State) : (nextPorts s).xlen = s.xlen := by
  unfold nextPorts; split <;> rfl

@[simp] theorem nextPorts_rom (s : State) : (nextPorts s).rom = s.rom := by
  unfold nextPorts; split <;> rfl

@[simp] theorem nextPorts_extSet (s : State) : (nextPorts s).extSet = s.extSet := by
  unfold nextPorts; split <;> rfl

@[simp] theorem nextPorts_s1 (s : State) : (nextPorts s).s1 = s.s1 := by
  unfold nextPorts; split <;> rfl

@[simp] theorem nextPorts_out (s : State) : (nextPorts s).out = s.out := by
  unfold nextPorts; split <;> rfl

theorem nextPorts_ports_cons {s : State} {p : Ports} {ps : List Ports} (h : s.stimulus = p :: ps) : (nextPorts s).ports = p := by
  simp [nextPorts, h]

theorem nextPorts_stimulus_cons {s : State} {p : Ports} {ps : List Ports} (h : s.stimulus = p :: ps) :
    (nextPorts s).stimulus = ps := by
  simp [nextPorts, h]

theorem nextPorts_nil {s : State} (h : s.stimulus = []) : nextPorts s = s := by
  simp [nextPorts, h]

/-! ## Presenting a word -/

@[simp] theorem presentWord_ports (w : Word) (s : State) :
    (presentWord w s).ports = { rst := false, en := true, inValid := true, inWord := w } := rfl

@[simp] theorem presentWord_s1 (w : Word) (s : State) : (presentWord w s).s1 = s.s1 := by
  simp only [presentWord]; split <;> rfl

@[simp] theorem presentWord_out (w : Word) (s : State) : (presentWord w s).out = s.out := by
  simp only [presentWord]; split <;> rfl

@[simp] theorem presentWord_stimulus (w : Word) (s : State) : (presentWord w s).stimulus = s.stimulus := by
  simp only [presentWord]; split <;> rfl

/-! ## The two stages -/

@[simp] theorem matchSlot_valid (rom : List Entry) (v : Bool) (w : Word) : (matchSlot rom v w).valid = v := rfl
@[simp] theorem matchSlot_len4 (rom : List Entry) (v : Bool) (w : Word) : (matchSlot rom v w).len4 = isLen4 w := rfl
@[simp] theorem matchSlot_word (rom : List Entry) (v : Bool) (w : Word) : (matchSlot rom v w).word = truncWord w := rfl
@[simp] theorem matchSlot_hit (rom : List Entry) (v : Bool) (w : Word) : (matchSlot rom v w).hit = matchHit rom w := rfl
@[simp] theorem matchSlot_index (rom : List Entry) (v : Bool) (w : Word) : (matchSlot rom v w).index = matchIndex rom w := rfl
@[simp] theorem matchSlot_fmt (rom : List Entry) (v : Bool) (w : Word) : (matchSlot rom v w).fmt = matchFmt rom w := rfl
@[simp] theorem extractSlot_valid (a : Stage1) : (extractSlot a).valid = a.valid := rfl
@[simp] theorem extractSlot_len4 (a : Stage1) : (extractSlot a).len4 = a.len4 := rfl
@[simp] theorem extractSlot_word (a : Stage1) : (extractSlot a).word = a.word := rfl
@[simp] theorem extractSlot_hit (a : Stage1) : (extractSlot a).hit = a.hit := rfl
@[simp] theorem extractSlot_index (a : Stage1) : (extractSlot a).index = a.index := rfl
@[simp] theorem extractSlot_fmt (a : Stage1) : (extractSlot a).fmt = a.fmt := rfl
@[simp] theorem extractSlot_fvalid (a : Stage1) : (extractSlot a).fvalid = fvalidOf (extractorCode a.fmt a.word) := rfl
@[simp] theorem extractSlot_fields (a : Stage1) : (extractSlot a).fields = fieldsOf (extractorCode a.fmt a.word) a.word := rfl

end Sys2Proof.Laws
end

