-- ==== Sys2Proof/Laws/Matcher.lean ====
section
/-! SUPPORT. What the matcher does: width and truncation of a word, one comparator, the first-match search over any ROM, and
when two entries cannot match one word. -/

namespace Sys2Proof.Laws

open Sys2Proof.Machine

/-! ## Width and truncation -/

theorem isLen4_iff (w : Word) : isLen4 w = true ↔ w.extractLsb 1 0 = 3#2 := by
  simp [isLen4]

theorem truncWord_len4 {w : Word} (h : isLen4 w = true) : truncWord w = w := by
  simp [truncWord, h]

theorem truncWord_half {w : Word} (h : isLen4 w = false) : truncWord w = compressed (lowHalf w) := by
  simp [truncWord, h, compressed, lowHalf]

theorem isLen4_compressed_lowHalf (w : Word) : isLen4 (compressed (lowHalf w)) = isLen4 w := by
  have e : (compressed (lowHalf w)).extractLsb 1 0 = w.extractLsb 1 0 := by
    apply BitVec.eq_of_getLsbD_eq; intro i hi
    interval_cases i <;> simp only [compressed, lowHalf, BitVec.getLsbD_append, BitVec.getLsbD_extractLsb] <;> simp
  simp only [isLen4, e]

@[simp] theorem isLen4_truncWord (w : Word) : isLen4 (truncWord w) = isLen4 w := by
  cases h : isLen4 w
  · rw [truncWord_half h, isLen4_compressed_lowHalf, h]
  · rw [truncWord_len4 h, h]

@[simp] theorem truncWord_truncWord (w : Word) : truncWord (truncWord w) = truncWord w := by
  cases h : isLen4 w
  · rw [truncWord_half h, truncWord_half (by rw [isLen4_compressed_lowHalf, h]), compressed_lowHalf]
  · rw [truncWord_len4 h, truncWord_len4 h]

/-! ## One comparator -/

theorem entryMatches_iff (e : Entry) (w : Word) :
    entryMatches e w = true ↔ e.w16 = (!isLen4 w) ∧ truncWord w &&& e.mask = e.value := by
  simp [entryMatches]

@[simp] theorem entryMatches_truncWord (e : Entry) (w : Word) : entryMatches e (truncWord w) = entryMatches e w := by
  simp [entryMatches]

/-- Two entries whose literals disagree somewhere, or whose width classes differ, match no word together. -/
theorem not_both_match {a b : Entry} {w : Word} (hab : (a.w16 == b.w16 && overlaps a b) = false)
    (ha : entryMatches a w = true) : entryMatches b w = false := by
  rw [entryMatches_iff] at ha
  refine Bool.eq_false_iff.mpr fun hb => ?_
  rw [entryMatches_iff] at hb
  have hw : a.w16 = b.w16 := ha.1.trans hb.1.symm
  have ho : overlaps a b = true := by
    refine beq_of_eq ?_
    rw [← ha.2, ← hb.2]
    apply BitVec.eq_of_getLsbD_eq; intro i hi
    simp only [BitVec.getLsbD_and, BitVec.getLsbD_xor]
    cases (truncWord w).getLsbD i <;> cases a.mask.getLsbD i <;> cases b.mask.getLsbD i <;> simp
  simp [hw, ho] at hab

/-- Two entries that one word matches are of one width class and overlap. -/
theorem overlaps_of_match {a b : Entry} {w : Word} (ha : entryMatches a w = true) (hb : entryMatches b w = true) :
    a.w16 = b.w16 ∧ overlaps a b = true := by
  by_contra h
  have := not_both_match (a := a) (b := b) (w := w) (by
    cases h1 : a.w16 == b.w16 <;> cases h2 : overlaps a b <;> simp_all) ha
  rw [this] at hb
  exact absurd hb (by decide)

/-! ## The first match -/

theorem firstMatch_eq_some_iff {rom : List Entry} {w : Word} {k : Nat} :
    firstMatch rom w = some k ↔
      ∃ e, rom[k]? = some e ∧ entryMatches e w = true ∧ ∀ j < k, ∀ a, rom[j]? = some a → entryMatches a w = false := by
  unfold firstMatch
  rw [List.findIdx?_eq_some_iff_getElem]
  constructor
  · rintro ⟨h, hm, hn⟩
    refine ⟨rom[k], List.getElem?_eq_getElem h, hm, fun j hj a ha => ?_⟩
    obtain ⟨hj', rfl⟩ := List.getElem?_eq_some_iff.mp ha
    simpa using hn j hj
  · rintro ⟨e, he, hm, hn⟩
    obtain ⟨h, rfl⟩ := List.getElem?_eq_some_iff.mp he
    refine ⟨h, hm, fun j hj => ?_⟩
    have := hn j hj _ (List.getElem?_eq_getElem (by omega))
    simpa using this

theorem firstMatch_eq_none_iff {rom : List Entry} {w : Word} :
    firstMatch rom w = none ↔ ∀ e ∈ rom, entryMatches e w = false := by
  simp [firstMatch]

theorem matchHit_eq (rom : List Entry) (w : Word) : matchHit rom w = (firstMatch rom w).isSome := by
  simp [matchHit, firstMatch, List.findIdx?_isSome]

/-- A word with the literal bits of a pattern that overlaps no entry of its width class is matched by none. -/
theorem firstMatch_none_of {rom : List Entry} {w : Word} (p : Entry) (h : entryMatches p w = true)
    (hr : rom.all (fun e => !(p.w16 == e.w16 && overlaps p e)) = true) : firstMatch rom w = none := by
  rw [firstMatch_eq_none_iff]
  intro e he
  have := List.all_eq_true.mp hr e he
  exact not_both_match (by revert this; cases (p.w16 == e.w16 && overlaps p e) <;> simp) h

theorem firstMatch_truncWord (rom : List Entry) (w : Word) : firstMatch rom (truncWord w) = firstMatch rom w := by
  simp [firstMatch]

/-- Everything `matchSlot` can answer: a hit with the first matching entry, or a miss with zeros. -/
theorem matchSlot_cases (rom : List Entry) (v : Bool) (w : Word) :
    (∃ k e, firstMatch rom w = some k ∧ rom[k]? = some e ∧ entryMatches e w = true ∧
        matchSlot rom v w = ⟨v, isLen4 w, truncWord w, true, k, e.fmt⟩) ∨
      (firstMatch rom w = none ∧ matchSlot rom v w = ⟨v, isLen4 w, truncWord w, false, 0, 0#6⟩) := by
  cases h : firstMatch rom w with
  | none => exact .inr ⟨rfl, by simp [matchSlot, matchHit_eq, matchIndex, matchFmt, h]⟩
  | some k =>
    obtain ⟨e, he, hm, _⟩ := firstMatch_eq_some_iff.mp h
    exact .inl ⟨k, e, rfl, he, hm, by simp [matchSlot, matchHit_eq, matchIndex, matchFmt, h, he]⟩

theorem matchSlot_hit_of {rom : List Entry} {w : Word} {k : Nat} {e : Entry} (v : Bool)
    (h : firstMatch rom w = some k) (he : rom[k]? = some e) :
    matchSlot rom v w = ⟨v, isLen4 w, truncWord w, true, k, e.fmt⟩ := by
  simp [matchSlot, matchHit_eq, matchIndex, matchFmt, h, he]

theorem matchSlot_miss_of {rom : List Entry} {w : Word} (v : Bool) (h : firstMatch rom w = none) :
    matchSlot rom v w = ⟨v, isLen4 w, truncWord w, false, 0, 0#6⟩ := by
  simp [matchSlot, matchHit_eq, matchIndex, matchFmt, h]

/-- The result of a match depends on the truncated word alone. -/
theorem matchSlot_truncWord (rom : List Entry) (v : Bool) (w : Word) :
    matchSlot rom v (truncWord w) = matchSlot rom v w := by
  simp [matchSlot, matchHit_eq, matchIndex, matchFmt, firstMatch_truncWord]

/-! ## The code the extractor works by -/

theorem extractorCode_of_allowed {c : Code} {w : Word} (h : codeAllowed (!isLen4 w) c = true) : extractorCode c w = c := by
  simp [extractorCode, h]

theorem extractorCode_of_not_allowed {c : Code} {w : Word} (h : codeAllowed (!isLen4 w) c = false) : extractorCode c w = 0#6 := by
  simp [extractorCode, h]

@[simp] theorem extractorCode_truncWord (c : Code) (w : Word) : extractorCode c (truncWord w) = extractorCode c w := by
  simp [extractorCode]

@[simp] theorem codeAllowed_zero (b : Bool) : codeAllowed b 0#6 = true := by cases b <;> rfl

/-- Where every entry carries a code of its own class, as in every built ROM, the code a match gives is one the word's class may
carry, so that the extractor works by the code itself (R57). -/
theorem codeAllowed_matchFmt {rom : List Entry} (h : ∀ e ∈ rom, codeAllowed e.w16 e.fmt = true) (w : Word) :
    codeAllowed (!isLen4 (truncWord w)) (matchFmt rom w) = true := by
  rw [isLen4_truncWord]
  unfold matchFmt
  cases hf : firstMatch rom w with
  | none => exact codeAllowed_zero _
  | some k =>
    obtain ⟨e, he, hm, _⟩ := firstMatch_eq_some_iff.mp hf
    simp only [he, Option.map_some, Option.getD_some]
    rw [← ((entryMatches_iff e w).mp hm).1]
    exact h e (List.mem_of_getElem? he)

/-- An index of a catalog fits in `IDX_W` bits (R8). -/
theorem lt_idxWidth {n k : Nat} (h : k < n) : k < 2 ^ idxWidth n := by
  have h1 : k < 2 ^ (Nat.log2 (max n 2 - 1) + 1) := lt_of_le_of_lt (by omega : k ≤ max n 2 - 1) Nat.lt_log2_self
  exact lt_of_lt_of_le h1 (Nat.pow_le_pow_right (by decide) (le_max_right _ _))

theorem matchIndex_lt (rom : List Entry) (w : Word) : matchIndex rom w < 2 ^ idxWidth rom.length := by
  unfold matchIndex
  cases h : firstMatch rom w with
  | none => exact Nat.pos_of_ne_zero (by simp)
  | some k =>
    obtain ⟨e, he, _⟩ := firstMatch_eq_some_iff.mp h
    exact lt_idxWidth (List.getElem?_eq_some_iff.mp he).1

end Sys2Proof.Laws
end

