-- ==== Sys2Proof/Laws/Formats.lean ====
section
/-! SUPPORT. One pair of lemmas for each operand form: a laid-out word is in its width class, carries its row's literals and gives
back its operands; and a word with a row's literals is the word its extracted operands lay out. -/

namespace Sys2Proof.Laws

open Sys2Proof.Machine

/-- The word `w` is a whole word of a table row's width class, has the row's literal bits, and its tag extracts the fields `f`. -/
structure Carries (w : Word) (w16 : Bool) (mask value : Word) (t : Tag) (f : Fields) : Prop where
  width : isLen4 w = !w16
  whole : truncWord w = w
  literal : w &&& mask = value
  fields : tagFields t w = f

theorem Carries.entryMatches {w : Word} {w16 : Bool} {mask value : Word} {t : Tag} {f : Fields}
    (h : Carries w w16 mask value t f) : entryMatches ⟨value, mask, w16, tagCode t⟩ w = true := by
  rw [entryMatches_iff]
  exact ⟨by simp [h.width], by rw [h.whole, h.literal]⟩

theorem wide_of {w : Word} {x : BitVec 2} (hw : w.extractLsb 1 0 = x) (hx : x = 3#2) : isLen4 w = !false := by
  rw [Bool.not_false, isLen4_iff, hw, hx]

theorem whole_of {w : Word} (h : isLen4 w = !false) : truncWord w = w := truncWord_len4 h

theorem narrow_of {w : Word} {x : BitVec 2} (hw : w.extractLsb 1 0 = x) (hx : x ≠ 3#2) : isLen4 w = !true := by
  rw [Bool.not_true, Bool.eq_false_iff, Ne, isLen4_iff, hw]
  exact hx

theorem whole16_of {w : Word} (h : isLen4 w = !true) (hh : compressed (lowHalf w) = w) : truncWord w = w := by
  rw [truncWord_half h, hh]

theorem fields_none (w : Word) : tagFields .none w = {} := rfl

/-! ## What each tag drives on the field ports -/

theorem Fields.ofR {w : Word} {rd : Reg} {rs1 : Reg} {rs2 : Reg}
    (h_rd : fieldRd w = rd) (h_rs1 : fieldRs1 w = rs1) (h_rs2 : fieldRs2 w = rs2) :
    tagFields .r w = { rd := rd, rs1 := rs1, rs2 := rs2 } := by
  subst h_rd h_rs1 h_rs2; rfl

theorem Fields.ofR2 {w : Word} {rd : Reg} {rs1 : Reg}
    (h_rd : fieldRd w = rd) (h_rs1 : fieldRs1 w = rs1) :
    tagFields .r2 w = { rd := rd, rs1 := rs1 } := by
  subst h_rd h_rs1; rfl

theorem Fields.ofRS {w : Word} {rs1 : Reg} {rs2 : Reg}
    (h_rs1 : fieldRs1 w = rs1) (h_rs2 : fieldRs2 w = rs2) :
    tagFields .rS w = { rs1 := rs1, rs2 := rs2 } := by
  subst h_rs1 h_rs2; rfl

theorem Fields.ofRRM {w : Word} {rd : Reg} {rs1 : Reg} {rs2 : Reg} {rm : BitVec 3}
    (h_rd : fieldRd w = rd) (h_rs1 : fieldRs1 w = rs1) (h_rs2 : fieldRs2 w = rs2) (h_rm : fieldRm w = rm) :
    tagFields .rRm w = { rd := rd, rs1 := rs1, rs2 := rs2, rm := rm } := by
  subst h_rd h_rs1 h_rs2 h_rm; rfl

theorem Fields.ofR2RM {w : Word} {rd : Reg} {rs1 : Reg} {rm : BitVec 3}
    (h_rd : fieldRd w = rd) (h_rs1 : fieldRs1 w = rs1) (h_rm : fieldRm w = rm) :
    tagFields .r2Rm w = { rd := rd, rs1 := rs1, rm := rm } := by
  subst h_rd h_rs1 h_rm; rfl

theorem Fields.ofR4RM {w : Word} {rd : Reg} {rs1 : Reg} {rs2 : Reg} {rs3 : Reg} {rm : BitVec 3}
    (h_rd : fieldRd w = rd) (h_rs1 : fieldRs1 w = rs1) (h_rs2 : fieldRs2 w = rs2) (h_rs3 : fieldRs3 w = rs3) (h_rm : fieldRm w = rm) :
    tagFields .r4Rm w = { rd := rd, rs1 := rs1, rs2 := rs2, rs3 := rs3, rm := rm } := by
  subst h_rd h_rs1 h_rs2 h_rs3 h_rm; rfl

theorem Fields.ofRAMO {w : Word} {rd : Reg} {rs1 : Reg} {rs2 : Reg} {aq : Bool} {rl : Bool}
    (h_rd : fieldRd w = rd) (h_rs1 : fieldRs1 w = rs1) (h_rs2 : fieldRs2 w = rs2) (h_aq : w.getLsbD 26 = aq) (h_rl : w.getLsbD 25 = rl) :
    tagFields .rAmo w = { rd := rd, rs1 := rs1, rs2 := rs2, aq := aq, rl := rl } := by
  subst h_rd h_rs1 h_rs2 h_aq h_rl; rfl

theorem Fields.ofRLR {w : Word} {rd : Reg} {rs1 : Reg} {aq : Bool} {rl : Bool}
    (h_rd : fieldRd w = rd) (h_rs1 : fieldRs1 w = rs1) (h_aq : w.getLsbD 26 = aq) (h_rl : w.getLsbD 25 = rl) :
    tagFields .rLr w = { rd := rd, rs1 := rs1, aq := aq, rl := rl } := by
  subst h_rd h_rs1 h_aq h_rl; rfl

theorem Fields.ofICSR {w : Word} {rd : Reg} {rs1 : Reg} {csr : BitVec 12}
    (h_rd : fieldRd w = rd) (h_rs1 : fieldRs1 w = rs1) (h_csr : fieldCsr w = csr) :
    tagFields .iCsr w = { rd := rd, rs1 := rs1, csr := csr } := by
  subst h_rd h_rs1 h_csr; rfl

theorem Fields.ofICSRI {w : Word} {rd : Reg} {imm : Word} {csr : BitVec 12}
    (h_rd : fieldRd w = rd) (h_imm : immCsri w = imm) (h_csr : fieldCsr w = csr) :
    tagFields .iCsri w = { rd := rd, imm := imm, csr := csr } := by
  subst h_rd h_imm h_csr; rfl

theorem Fields.ofI {w : Word} {rd : Reg} {rs1 : Reg} {imm : Word}
    (h_rd : fieldRd w = rd) (h_rs1 : fieldRs1 w = rs1) (h_imm : immI w = imm) :
    tagFields .i w = { rd := rd, rs1 := rs1, imm := imm } := by
  subst h_rd h_rs1 h_imm; rfl

theorem Fields.ofISH5 {w : Word} {rd : Reg} {rs1 : Reg} {shamt : BitVec 6}
    (h_rd : fieldRd w = rd) (h_rs1 : fieldRs1 w = rs1) (h_shamt : shamt5 w = shamt) :
    tagFields .iSh5 w = { rd := rd, rs1 := rs1, shamt := shamt } := by
  subst h_rd h_rs1 h_shamt; rfl

theorem Fields.ofISH6 {w : Word} {rd : Reg} {rs1 : Reg} {shamt : BitVec 6}
    (h_rd : fieldRd w = rd) (h_rs1 : fieldRs1 w = rs1) (h_shamt : shamt6 w = shamt) :
    tagFields .iSh6 w = { rd := rd, rs1 := rs1, shamt := shamt } := by
  subst h_rd h_rs1 h_shamt; rfl

theorem Fields.ofS {w : Word} {rs1 : Reg} {rs2 : Reg} {imm : Word}
    (h_rs1 : fieldRs1 w = rs1) (h_rs2 : fieldRs2 w = rs2) (h_imm : immS w = imm) :
    tagFields .s w = { rs1 := rs1, rs2 := rs2, imm := imm } := by
  subst h_rs1 h_rs2 h_imm; rfl

theorem Fields.ofB {w : Word} {rs1 : Reg} {rs2 : Reg} {imm : Word}
    (h_rs1 : fieldRs1 w = rs1) (h_rs2 : fieldRs2 w = rs2) (h_imm : immB w = imm) :
    tagFields .b w = { rs1 := rs1, rs2 := rs2, imm := imm } := by
  subst h_rs1 h_rs2 h_imm; rfl

theorem Fields.ofU {w : Word} {rd : Reg} {imm : Word}
    (h_rd : fieldRd w = rd) (h_imm : immU w = imm) :
    tagFields .u w = { rd := rd, imm := imm } := by
  subst h_rd h_imm; rfl

theorem Fields.ofJ {w : Word} {rd : Reg} {imm : Word}
    (h_rd : fieldRd w = rd) (h_imm : immJ w = imm) :
    tagFields .j w = { rd := rd, imm := imm } := by
  subst h_rd h_imm; rfl

theorem Fields.ofCR {w : Word} {rd : Reg} {rs2 : Reg}
    (h_rd : fieldCRd (lowHalf w) = rd) (h_rs2 : fieldCRs2 (lowHalf w) = rs2) :
    tagFields .cr w = { rd := rd, rs2 := rs2 } := by
  subst h_rd h_rs2; rfl

theorem Fields.ofCRJR {w : Word} {rs1 : Reg}
    (h_rs1 : fieldCRd (lowHalf w) = rs1) :
    tagFields .crJr w = { rs1 := rs1 } := by
  subst h_rs1; rfl

theorem Fields.ofCI {w : Word} {rd : Reg} {imm : Word}
    (h_rd : fieldCRd (lowHalf w) = rd) (h_imm : immCI (lowHalf w) = imm) :
    tagFields .ci w = { rd := rd, imm := imm } := by
  subst h_rd h_imm; rfl

theorem Fields.ofCILUI {w : Word} {rd : Reg} {imm : Word}
    (h_rd : fieldCRd (lowHalf w) = rd) (h_imm : immCLui (lowHalf w) = imm) :
    tagFields .ciLui w = { rd := rd, imm := imm } := by
  subst h_rd h_imm; rfl

theorem Fields.ofCIADDI16SP {w : Word} {imm : Word}
    (h_imm : immCAddi16sp (lowHalf w) = imm) :
    tagFields .ciAddi16sp w = { imm := imm } := by
  subst h_imm; rfl

theorem Fields.ofCISH {w : Word} {rd : Reg} {shamt : BitVec 6}
    (h_rd : fieldCRd (lowHalf w) = rd) (h_shamt : shamtC (lowHalf w) = shamt) :
    tagFields .ciSh w = { rd := rd, shamt := shamt } := by
  subst h_rd h_shamt; rfl

theorem Fields.ofCILWSP {w : Word} {rd : Reg} {imm : Word}
    (h_rd : fieldCRd (lowHalf w) = rd) (h_imm : immCLwsp (lowHalf w) = imm) :
    tagFields .ciLwsp w = { rd := rd, imm := imm } := by
  subst h_rd h_imm; rfl

theorem Fields.ofCILDSP {w : Word} {rd : Reg} {imm : Word}
    (h_rd : fieldCRd (lowHalf w) = rd) (h_imm : immCLdsp (lowHalf w) = imm) :
    tagFields .ciLdsp w = { rd := rd, imm := imm } := by
  subst h_rd h_imm; rfl

theorem Fields.ofCSSSWSP {w : Word} {rs2 : Reg} {imm : Word}
    (h_rs2 : fieldCRs2 (lowHalf w) = rs2) (h_imm : immCSwsp (lowHalf w) = imm) :
    tagFields .cssSwsp w = { rs2 := rs2, imm := imm } := by
  subst h_rs2 h_imm; rfl

theorem Fields.ofCSSSDSP {w : Word} {rs2 : Reg} {imm : Word}
    (h_rs2 : fieldCRs2 (lowHalf w) = rs2) (h_imm : immCSdsp (lowHalf w) = imm) :
    tagFields .cssSdsp w = { rs2 := rs2, imm := imm } := by
  subst h_rs2 h_imm; rfl

theorem Fields.ofCIW {w : Word} {rd : Reg} {imm : Word}
    (h_rd : fieldCLow (lowHalf w) = rd) (h_imm : immCIW (lowHalf w) = imm) :
    tagFields .ciw w = { rd := rd, imm := imm } := by
  subst h_rd h_imm; rfl

theorem Fields.ofCLW {w : Word} {rd : Reg} {rs1 : Reg} {imm : Word}
    (h_rd : fieldCLow (lowHalf w) = rd) (h_rs1 : fieldCHigh (lowHalf w) = rs1) (h_imm : immCW (lowHalf w) = imm) :
    tagFields .clW w = { rd := rd, rs1 := rs1, imm := imm } := by
  subst h_rd h_rs1 h_imm; rfl

theorem Fields.ofCLD {w : Word} {rd : Reg} {rs1 : Reg} {imm : Word}
    (h_rd : fieldCLow (lowHalf w) = rd) (h_rs1 : fieldCHigh (lowHalf w) = rs1) (h_imm : immCD (lowHalf w) = imm) :
    tagFields .clD w = { rd := rd, rs1 := rs1, imm := imm } := by
  subst h_rd h_rs1 h_imm; rfl

theorem Fields.ofCSW {w : Word} {rs1 : Reg} {rs2 : Reg} {imm : Word}
    (h_rs1 : fieldCHigh (lowHalf w) = rs1) (h_rs2 : fieldCLow (lowHalf w) = rs2) (h_imm : immCW (lowHalf w) = imm) :
    tagFields .csW w = { rs1 := rs1, rs2 := rs2, imm := imm } := by
  subst h_rs1 h_rs2 h_imm; rfl

theorem Fields.ofCSD {w : Word} {rs1 : Reg} {rs2 : Reg} {imm : Word}
    (h_rs1 : fieldCHigh (lowHalf w) = rs1) (h_rs2 : fieldCLow (lowHalf w) = rs2) (h_imm : immCD (lowHalf w) = imm) :
    tagFields .csD w = { rs1 := rs1, rs2 := rs2, imm := imm } := by
  subst h_rs1 h_rs2 h_imm; rfl

theorem Fields.ofCA {w : Word} {rd : Reg} {rs2 : Reg}
    (h_rd : fieldCHigh (lowHalf w) = rd) (h_rs2 : fieldCLow (lowHalf w) = rs2) :
    tagFields .ca w = { rd := rd, rs2 := rs2 } := by
  subst h_rd h_rs2; rfl

theorem Fields.ofCBBR {w : Word} {rs1 : Reg} {imm : Word}
    (h_rs1 : fieldCHigh (lowHalf w) = rs1) (h_imm : immCB (lowHalf w) = imm) :
    tagFields .cbBr w = { rs1 := rs1, imm := imm } := by
  subst h_rs1 h_imm; rfl

theorem Fields.ofCBSH {w : Word} {rd : Reg} {shamt : BitVec 6}
    (h_rd : fieldCHigh (lowHalf w) = rd) (h_shamt : shamtC (lowHalf w) = shamt) :
    tagFields .cbSh w = { rd := rd, shamt := shamt } := by
  subst h_rd h_shamt; rfl

theorem Fields.ofCBANDI {w : Word} {rd : Reg} {imm : Word}
    (h_rd : fieldCHigh (lowHalf w) = rd) (h_imm : immCI (lowHalf w) = imm) :
    tagFields .cbAndi w = { rd := rd, imm := imm } := by
  subst h_rd h_imm; rfl

theorem Fields.ofCJ {w : Word} {imm : Word}
    (h_imm : immCJ (lowHalf w) = imm) :
    tagFields .cj w = { imm := imm } := by
  subst h_imm; rfl

/-! ## From operands to a word -/

theorem carries_R (f7 : BitVec 7) (rs2 rs1 : Reg) (f3 : BitVec 3) (rd : Reg) (op : BitVec 7) (value : Word) (hop : op.extractLsb 1 0 = 3#2)
    (hv : encR f7 0 0 f3 0 op = value) :
    Carries (encR f7 rs2 rs1 f3 rd op) false 0xFE00707F#32 value .r { rd := rd, rs1 := rs1, rs2 := rs2 } where
  width := wide_of (width_encR ..) hop
  whole := whole_of (wide_of (width_encR ..) hop)
  literal := (literal_R ..).trans hv
  fields := Fields.ofR (fieldRd_encR ..) (fieldRs1_encR ..) (fieldRs2_encR ..)

theorem carries_R2 (f7 : BitVec 7) (rs2 rs1 : Reg) (f3 : BitVec 3) (rd : Reg) (op : BitVec 7) (value : Word) (hop : op.extractLsb 1 0 = 3#2)
    (hv : encR f7 rs2 0 f3 0 op = value) :
    Carries (encR f7 rs2 rs1 f3 rd op) false 0xFFF0707F#32 value .r2 { rd := rd, rs1 := rs1 } where
  width := wide_of (width_encR ..) hop
  whole := whole_of (wide_of (width_encR ..) hop)
  literal := (literal_R2 ..).trans hv
  fields := Fields.ofR2 (fieldRd_encR ..) (fieldRs1_encR ..)

theorem carries_RS (f7 : BitVec 7) (rs2 rs1 : Reg) (f3 : BitVec 3) (rd : Reg) (op : BitVec 7) (value : Word) (hop : op.extractLsb 1 0 = 3#2)
    (hv : encR f7 0 0 f3 rd op = value) :
    Carries (encR f7 rs2 rs1 f3 rd op) false 0xFE007FFF#32 value .rS { rs1 := rs1, rs2 := rs2 } where
  width := wide_of (width_encR ..) hop
  whole := whole_of (wide_of (width_encR ..) hop)
  literal := (literal_Rs ..).trans hv
  fields := Fields.ofRS (fieldRs1_encR ..) (fieldRs2_encR ..)

theorem carries_RRM (f7 : BitVec 7) (rs2 rs1 : Reg) (rm : BitVec 3) (rd : Reg) (op : BitVec 7) (value : Word) (hop : op.extractLsb 1 0 = 3#2)
    (hv : encR f7 0 0 0 0 op = value) :
    Carries (encR f7 rs2 rs1 rm rd op) false 0xFE00007F#32 value .rRm { rd := rd, rs1 := rs1, rs2 := rs2, rm := rm } where
  width := wide_of (width_encR ..) hop
  whole := whole_of (wide_of (width_encR ..) hop)
  literal := (literal_RRm ..).trans hv
  fields := Fields.ofRRM (fieldRd_encR ..) (fieldRs1_encR ..) (fieldRs2_encR ..) (fieldRm_encR ..)

theorem carries_R2RM (f7 : BitVec 7) (rs2 rs1 : Reg) (rm : BitVec 3) (rd : Reg) (op : BitVec 7) (value : Word) (hop : op.extractLsb 1 0 = 3#2)
    (hv : encR f7 rs2 0 0 0 op = value) :
    Carries (encR f7 rs2 rs1 rm rd op) false 0xFFF0007F#32 value .r2Rm { rd := rd, rs1 := rs1, rm := rm } where
  width := wide_of (width_encR ..) hop
  whole := whole_of (wide_of (width_encR ..) hop)
  literal := (literal_R2Rm ..).trans hv
  fields := Fields.ofR2RM (fieldRd_encR ..) (fieldRs1_encR ..) (fieldRm_encR ..)

theorem carries_R4RM (rs3 : Reg) (f2 : BitVec 2) (rs2 rs1 : Reg) (rm : BitVec 3) (rd : Reg) (op : BitVec 7) (value : Word) (hop : op.extractLsb 1 0 = 3#2)
    (hv : encR4 0 f2 0 0 0 0 op = value) :
    Carries (encR4 rs3 f2 rs2 rs1 rm rd op) false 0x0600007F#32 value .r4Rm { rd := rd, rs1 := rs1, rs2 := rs2, rs3 := rs3, rm := rm } where
  width := wide_of (width_encR4 ..) hop
  whole := whole_of (wide_of (width_encR4 ..) hop)
  literal := (literal_R4Rm ..).trans hv
  fields := Fields.ofR4RM (fieldRd_encR4 ..) (fieldRs1_encR4 ..) (fieldRs2_encR4 ..) (fieldRs3_encR4 ..) (fieldRm_encR4 ..)

theorem carries_RAMO (f5 : BitVec 5) (aq rl : Bool) (rs2 rs1 : Reg) (f3 : BitVec 3) (rd : Reg) (op : BitVec 7) (value : Word) (hop : op.extractLsb 1 0 = 3#2)
    (hv : encAmo f5 false false 0 0 f3 0 op = value) :
    Carries (encAmo f5 aq rl rs2 rs1 f3 rd op) false 0xF800707F#32 value .rAmo { rd := rd, rs1 := rs1, rs2 := rs2, aq := aq, rl := rl } where
  width := wide_of (width_encAmo ..) hop
  whole := whole_of (wide_of (width_encAmo ..) hop)
  literal := (literal_Amo ..).trans hv
  fields := Fields.ofRAMO (fieldRd_encAmo ..) (fieldRs1_encAmo ..) (fieldRs2_encAmo ..) (aq_encAmo ..) (rl_encAmo ..)

theorem carries_RLR (f5 : BitVec 5) (aq rl : Bool) (rs2 rs1 : Reg) (f3 : BitVec 3) (rd : Reg) (op : BitVec 7) (value : Word) (hop : op.extractLsb 1 0 = 3#2)
    (hv : encAmo f5 false false rs2 0 f3 0 op = value) :
    Carries (encAmo f5 aq rl rs2 rs1 f3 rd op) false 0xF9F0707F#32 value .rLr { rd := rd, rs1 := rs1, aq := aq, rl := rl } where
  width := wide_of (width_encAmo ..) hop
  whole := whole_of (wide_of (width_encAmo ..) hop)
  literal := (literal_Lr ..).trans hv
  fields := Fields.ofRLR (fieldRd_encAmo ..) (fieldRs1_encAmo ..) (aq_encAmo ..) (rl_encAmo ..)

theorem carries_ICSR (csr : BitVec 12) (rs1 : Reg) (f3 : BitVec 3) (rd : Reg) (op : BitVec 7) (value : Word) (hop : op.extractLsb 1 0 = 3#2)
    (hv : encCsr 0 0 f3 0 op = value) :
    Carries (encCsr csr rs1 f3 rd op) false 0x0000707F#32 value .iCsr { rd := rd, rs1 := rs1, csr := csr } where
  width := wide_of (width_encCsr ..) hop
  whole := whole_of (wide_of (width_encCsr ..) hop)
  literal := (literal_Csr ..).trans hv
  fields := Fields.ofICSR (fieldRd_encCsr ..) (fieldRs1_encCsr ..) (fieldCsr_encCsr ..)

theorem carries_ICSRI (csr : BitVec 12) (imm : Word) (f3 : BitVec 3) (rd : Reg) (op : BitVec 7) (value : Word) (hop : op.extractLsb 1 0 = 3#2)
    (hv : encCsr 0 0 f3 0 op = value) (h0 : fitsZext 5 imm = true) :
    Carries (encCsr csr (imm.extractLsb 4 0) f3 rd op) false 0x0000707F#32 value .iCsri { rd := rd, imm := imm, csr := csr } where
  width := wide_of (width_encCsr ..) hop
  whole := whole_of (wide_of (width_encCsr ..) hop)
  literal := (literal_Csr ..).trans hv
  fields := Fields.ofICSRI (fieldRd_encCsr ..) (immCsri_enc (h := h0) ..) (fieldCsr_encCsr ..)

theorem carries_I (imm : Word) (rs1 : Reg) (f3 : BitVec 3) (rd : Reg) (op : BitVec 7) (value : Word) (hop : op.extractLsb 1 0 = 3#2)
    (hv : encI 0 0 f3 0 op = value) (h0 : fitsSext 12 imm = true) :
    Carries (encI imm rs1 f3 rd op) false 0x0000707F#32 value .i { rd := rd, rs1 := rs1, imm := imm } where
  width := wide_of (width_encI ..) hop
  whole := whole_of (wide_of (width_encI ..) hop)
  literal := (literal_I ..).trans hv
  fields := Fields.ofI (fieldRd_encI ..) (fieldRs1_encI ..) (immI_enc (h := h0) ..)

theorem carries_ISH5 (f7 : BitVec 7) (shamt : BitVec 6) (rs1 : Reg) (f3 : BitVec 3) (rd : Reg) (op : BitVec 7) (value : Word) (hop : op.extractLsb 1 0 = 3#2)
    (hv : encSh5 f7 0 0 f3 0 op = value) (h0 : fitsFive shamt = true) :
    Carries (encSh5 f7 shamt rs1 f3 rd op) false 0xFE00707F#32 value .iSh5 { rd := rd, rs1 := rs1, shamt := shamt } where
  width := wide_of (width_encSh5 ..) hop
  whole := whole_of (wide_of (width_encSh5 ..) hop)
  literal := (literal_Sh5 ..).trans hv
  fields := Fields.ofISH5 (fieldRd_encSh5 ..) (fieldRs1_encSh5 ..) (shamt5_enc (h := h0) ..)

theorem carries_ISH6 (f6 shamt : BitVec 6) (rs1 : Reg) (f3 : BitVec 3) (rd : Reg) (op : BitVec 7) (value : Word) (hop : op.extractLsb 1 0 = 3#2)
    (hv : encSh6 f6 0 0 f3 0 op = value) :
    Carries (encSh6 f6 shamt rs1 f3 rd op) false 0xFC00707F#32 value .iSh6 { rd := rd, rs1 := rs1, shamt := shamt } where
  width := wide_of (width_encSh6 ..) hop
  whole := whole_of (wide_of (width_encSh6 ..) hop)
  literal := (literal_Sh6 ..).trans hv
  fields := Fields.ofISH6 (fieldRd_encSh6 ..) (fieldRs1_encSh6 ..) (shamt6_encSh6 ..)

theorem carries_S (imm : Word) (rs2 rs1 : Reg) (f3 : BitVec 3) (op : BitVec 7) (value : Word) (hop : op.extractLsb 1 0 = 3#2)
    (hv : encS 0 0 0 f3 op = value) (h0 : fitsSext 12 imm = true) :
    Carries (encS imm rs2 rs1 f3 op) false 0x0000707F#32 value .s { rs1 := rs1, rs2 := rs2, imm := imm } where
  width := wide_of (width_encS ..) hop
  whole := whole_of (wide_of (width_encS ..) hop)
  literal := (literal_S ..).trans hv
  fields := Fields.ofS (fieldRs1_encS ..) (fieldRs2_encS ..) (immS_enc (h := h0) ..)

theorem carries_B (imm : Word) (rs2 rs1 : Reg) (f3 : BitVec 3) (op : BitVec 7) (value : Word) (hop : op.extractLsb 1 0 = 3#2)
    (hv : encB 0 0 0 f3 op = value) (h0 : fitsSext 13 imm = true) (h1 : lowZero 1 imm = true) :
    Carries (encB imm rs2 rs1 f3 op) false 0x0000707F#32 value .b { rs1 := rs1, rs2 := rs2, imm := imm } where
  width := wide_of (width_encB ..) hop
  whole := whole_of (wide_of (width_encB ..) hop)
  literal := (literal_B ..).trans hv
  fields := Fields.ofB (fieldRs1_encB ..) (fieldRs2_encB ..) (immB_enc (h := h0) (h0 := h1) ..)

theorem carries_U (imm : Word) (rd : Reg) (op : BitVec 7) (value : Word) (hop : op.extractLsb 1 0 = 3#2)
    (hv : encU 0 0 op = value) (h0 : lowZero 12 imm = true) :
    Carries (encU imm rd op) false 0x0000007F#32 value .u { rd := rd, imm := imm } where
  width := wide_of (width_encU ..) hop
  whole := whole_of (wide_of (width_encU ..) hop)
  literal := (literal_U ..).trans hv
  fields := Fields.ofU (fieldRd_encU ..) (immU_enc (h := h0) ..)

theorem carries_J (imm : Word) (rd : Reg) (op : BitVec 7) (value : Word) (hop : op.extractLsb 1 0 = 3#2)
    (hv : encJ 0 0 op = value) (h0 : fitsSext 21 imm = true) (h1 : lowZero 1 imm = true) :
    Carries (encJ imm rd op) false 0x0000007F#32 value .j { rd := rd, imm := imm } where
  width := wide_of (width_encJ ..) hop
  whole := whole_of (wide_of (width_encJ ..) hop)
  literal := (literal_J ..).trans hv
  fields := Fields.ofJ (fieldRd_encJ ..) (immJ_enc (h := h0) (h0 := h1) ..)

theorem carries_CR (f3 : BitVec 3) (b12 : BitVec 1) (rd rs2 : Reg) (op2 : BitVec 2) (value : Word) (hop : op2 ≠ 3#2)
    (hv : encCR f3 b12 0 0 op2 = value) :
    Carries (encCR f3 b12 rd rs2 op2) true 0x0000F003#32 value .cr { rd := rd, rs2 := rs2 } where
  width := narrow_of (width_encCR ..) hop
  whole := whole16_of (narrow_of (width_encCR ..) hop) (half_encCR ..)
  literal := (literal_CR ..).trans hv
  fields := Fields.ofCR (fieldCRd_encCR ..) (fieldCRs2_encCR ..)

theorem carries_CRJR (f3 : BitVec 3) (b12 : BitVec 1) (rs1 rs2 : Reg) (op2 : BitVec 2) (value : Word) (hop : op2 ≠ 3#2)
    (hv : encCR f3 b12 0 rs2 op2 = value) :
    Carries (encCR f3 b12 rs1 rs2 op2) true 0x0000F07F#32 value .crJr { rs1 := rs1 } where
  width := narrow_of (width_encCR ..) hop
  whole := whole16_of (narrow_of (width_encCR ..) hop) (half_encCR ..)
  literal := (literal_CRJr ..).trans hv
  fields := Fields.ofCRJR (fieldCRd_encCR ..)

theorem carries_CI (f3 : BitVec 3) (imm : Word) (rd : Reg) (op2 : BitVec 2) (value : Word) (hop : op2 ≠ 3#2)
    (hv : encCI f3 0 0 0 op2 = value) (h0 : fitsSext 6 imm = true) :
    Carries (encCI f3 (imm.extractLsb 5 5) rd (imm.extractLsb 4 0) op2) true 0x0000E003#32 value .ci { rd := rd, imm := imm } where
  width := narrow_of (width_encCI ..) hop
  whole := whole16_of (narrow_of (width_encCI ..) hop) (half_encCI ..)
  literal := (literal_CI ..).trans hv
  fields := Fields.ofCI (fieldCRd_encCI ..) (immCI_enc (h := h0) ..)

theorem carries_CILUI (f3 : BitVec 3) (imm : Word) (rd : Reg) (op2 : BitVec 2) (value : Word) (hop : op2 ≠ 3#2)
    (hv : encCI f3 0 0 0 op2 = value) (h0 : fitsSext 18 imm = true) (h1 : lowZero 12 imm = true) :
    Carries (encCI f3 (imm.extractLsb 17 17) rd (imm.extractLsb 16 12) op2) true 0x0000E003#32 value .ciLui { rd := rd, imm := imm } where
  width := narrow_of (width_encCI ..) hop
  whole := whole16_of (narrow_of (width_encCI ..) hop) (half_encCI ..)
  literal := (literal_CI ..).trans hv
  fields := Fields.ofCILUI (fieldCRd_encCI ..) (immCLui_enc (h := h0) (h0 := h1) ..)

theorem carries_CIADDI16SP (f3 : BitVec 3) (imm : Word) (rd : Reg) (op2 : BitVec 2) (value : Word) (hop : op2 ≠ 3#2)
    (hv : encCI f3 0 rd 0 op2 = value) (h0 : fitsSext 10 imm = true) (h1 : lowZero 4 imm = true) :
    Carries (encCI f3 (imm.extractLsb 9 9) rd (imm.extractLsb 4 4 ++ imm.extractLsb 6 6 ++ imm.extractLsb 8 7 ++ imm.extractLsb 5 5) op2) true 0x0000EF83#32 value .ciAddi16sp { imm := imm } where
  width := narrow_of (width_encCI ..) hop
  whole := whole16_of (narrow_of (width_encCI ..) hop) (half_encCI ..)
  literal := (literal_CIAddi16sp ..).trans hv
  fields := Fields.ofCIADDI16SP (immCAddi16sp_enc (h := h0) (h0 := h1) ..)

theorem carries_CISH (f3 : BitVec 3) (shamt : BitVec 6) (rd : Reg) (op2 : BitVec 2) (value : Word) (hop : op2 ≠ 3#2)
    (hv : encCI f3 0 0 0 op2 = value) :
    Carries (encCI f3 (shamt.extractLsb 5 5) rd (shamt.extractLsb 4 0) op2) true 0x0000E003#32 value .ciSh { rd := rd, shamt := shamt } where
  width := narrow_of (width_encCI ..) hop
  whole := whole16_of (narrow_of (width_encCI ..) hop) (half_encCI ..)
  literal := (literal_CI ..).trans hv
  fields := Fields.ofCISH (fieldCRd_encCI ..) (shamtC_encCI ..)

theorem carries_CISH5 (f3 : BitVec 3) (shamt : BitVec 6) (rd : Reg) (op2 : BitVec 2) (value : Word) (hop : op2 ≠ 3#2)
    (hv : encCI f3 0#1 0 0 op2 = value) (h0 : fitsFive shamt = true) :
    Carries (encCI f3 0#1 rd (shamt.extractLsb 4 0) op2) true 0x0000F003#32 value .ciSh { rd := rd, shamt := shamt } where
  width := narrow_of (width_encCI ..) hop
  whole := whole16_of (narrow_of (width_encCI ..) hop) (half_encCI ..)
  literal := (literal_CISh ..).trans hv
  fields := Fields.ofCISH (fieldCRd_encCI ..) (shamtC_encCI5 (h := h0) ..)

theorem carries_CILWSP (f3 : BitVec 3) (imm : Word) (rd : Reg) (op2 : BitVec 2) (value : Word) (hop : op2 ≠ 3#2)
    (hv : encCI f3 0 0 0 op2 = value) (h0 : fitsZext 8 imm = true) (h1 : lowZero 2 imm = true) :
    Carries (encCI f3 (imm.extractLsb 5 5) rd (imm.extractLsb 4 2 ++ imm.extractLsb 7 6) op2) true 0x0000E003#32 value .ciLwsp { rd := rd, imm := imm } where
  width := narrow_of (width_encCI ..) hop
  whole := whole16_of (narrow_of (width_encCI ..) hop) (half_encCI ..)
  literal := (literal_CI ..).trans hv
  fields := Fields.ofCILWSP (fieldCRd_encCI ..) (immCLwsp_enc (h := h0) (h0 := h1) ..)

theorem carries_CILDSP (f3 : BitVec 3) (imm : Word) (rd : Reg) (op2 : BitVec 2) (value : Word) (hop : op2 ≠ 3#2)
    (hv : encCI f3 0 0 0 op2 = value) (h0 : fitsZext 9 imm = true) (h1 : lowZero 3 imm = true) :
    Carries (encCI f3 (imm.extractLsb 5 5) rd (imm.extractLsb 4 3 ++ imm.extractLsb 8 6) op2) true 0x0000E003#32 value .ciLdsp { rd := rd, imm := imm } where
  width := narrow_of (width_encCI ..) hop
  whole := whole16_of (narrow_of (width_encCI ..) hop) (half_encCI ..)
  literal := (literal_CI ..).trans hv
  fields := Fields.ofCILDSP (fieldCRd_encCI ..) (immCLdsp_enc (h := h0) (h0 := h1) ..)

theorem carries_CSSSWSP (f3 : BitVec 3) (imm : Word) (rs2 : Reg) (op2 : BitVec 2) (value : Word) (hop : op2 ≠ 3#2)
    (hv : encCSS f3 0 0 op2 = value) (h0 : fitsZext 8 imm = true) (h1 : lowZero 2 imm = true) :
    Carries (encCSS f3 (imm.extractLsb 5 2 ++ imm.extractLsb 7 6) rs2 op2) true 0x0000E003#32 value .cssSwsp { rs2 := rs2, imm := imm } where
  width := narrow_of (width_encCSS ..) hop
  whole := whole16_of (narrow_of (width_encCSS ..) hop) (half_encCSS ..)
  literal := (literal_CSS ..).trans hv
  fields := Fields.ofCSSSWSP (fieldCRs2_encCSS ..) (immCSwsp_enc (h := h0) (h0 := h1) ..)

theorem carries_CSSSDSP (f3 : BitVec 3) (imm : Word) (rs2 : Reg) (op2 : BitVec 2) (value : Word) (hop : op2 ≠ 3#2)
    (hv : encCSS f3 0 0 op2 = value) (h0 : fitsZext 9 imm = true) (h1 : lowZero 3 imm = true) :
    Carries (encCSS f3 (imm.extractLsb 5 3 ++ imm.extractLsb 8 6) rs2 op2) true 0x0000E003#32 value .cssSdsp { rs2 := rs2, imm := imm } where
  width := narrow_of (width_encCSS ..) hop
  whole := whole16_of (narrow_of (width_encCSS ..) hop) (half_encCSS ..)
  literal := (literal_CSS ..).trans hv
  fields := Fields.ofCSSSDSP (fieldCRs2_encCSS ..) (immCSdsp_enc (h := h0) (h0 := h1) ..)

theorem carries_CIW (f3 : BitVec 3) (imm : Word) (rd : Reg) (op2 : BitVec 2) (value : Word) (hop : op2 ≠ 3#2)
    (hv : encCIW f3 0 0 op2 = value) (h0 : isPrime rd = true) (h1 : fitsZext 10 imm = true) (h2 : lowZero 2 imm = true) :
    Carries (encCIW f3 (imm.extractLsb 5 4 ++ imm.extractLsb 9 6 ++ imm.extractLsb 2 2 ++ imm.extractLsb 3 3) rd op2) true 0x0000E003#32 value .ciw { rd := rd, imm := imm } where
  width := narrow_of (width_encCIW ..) hop
  whole := whole16_of (narrow_of (width_encCIW ..) hop) (half_encCIW ..)
  literal := (literal_CIW ..).trans hv
  fields := Fields.ofCIW (fieldCLow_encCIW (h := h0) ..) (immCIW_enc (h := h1) (h0 := h2) ..)

theorem carries_CLW (f3 : BitVec 3) (imm : Word) (rs1 rd : Reg) (op2 : BitVec 2) (value : Word) (hop : op2 ≠ 3#2)
    (hv : encCL f3 0 0 0 0 op2 = value) (h0 : isPrime rd = true) (h1 : isPrime rs1 = true) (h2 : fitsZext 7 imm = true) (h3 : lowZero 2 imm = true) :
    Carries (encCL f3 (imm.extractLsb 5 3) rs1 (imm.extractLsb 2 2 ++ imm.extractLsb 6 6) rd op2) true 0x0000E003#32 value .clW { rd := rd, rs1 := rs1, imm := imm } where
  width := narrow_of (width_encCL ..) hop
  whole := whole16_of (narrow_of (width_encCL ..) hop) (half_encCL ..)
  literal := (literal_CL ..).trans hv
  fields := Fields.ofCLW (fieldCLow_encCL (h := h0) ..) (fieldCHigh_encCL (h := h1) ..) (immCW_enc (h := h2) (h0 := h3) ..)

theorem carries_CLD (f3 : BitVec 3) (imm : Word) (rs1 rd : Reg) (op2 : BitVec 2) (value : Word) (hop : op2 ≠ 3#2)
    (hv : encCL f3 0 0 0 0 op2 = value) (h0 : isPrime rd = true) (h1 : isPrime rs1 = true) (h2 : fitsZext 8 imm = true) (h3 : lowZero 3 imm = true) :
    Carries (encCL f3 (imm.extractLsb 5 3) rs1 (imm.extractLsb 7 6) rd op2) true 0x0000E003#32 value .clD { rd := rd, rs1 := rs1, imm := imm } where
  width := narrow_of (width_encCL ..) hop
  whole := whole16_of (narrow_of (width_encCL ..) hop) (half_encCL ..)
  literal := (literal_CL ..).trans hv
  fields := Fields.ofCLD (fieldCLow_encCL (h := h0) ..) (fieldCHigh_encCL (h := h1) ..) (immCD_enc (h := h2) (h0 := h3) ..)

theorem carries_CSW (f3 : BitVec 3) (imm : Word) (rs1 rs2 : Reg) (op2 : BitVec 2) (value : Word) (hop : op2 ≠ 3#2)
    (hv : encCL f3 0 0 0 0 op2 = value) (h0 : isPrime rs1 = true) (h1 : isPrime rs2 = true) (h2 : fitsZext 7 imm = true) (h3 : lowZero 2 imm = true) :
    Carries (encCL f3 (imm.extractLsb 5 3) rs1 (imm.extractLsb 2 2 ++ imm.extractLsb 6 6) rs2 op2) true 0x0000E003#32 value .csW { rs1 := rs1, rs2 := rs2, imm := imm } where
  width := narrow_of (width_encCL ..) hop
  whole := whole16_of (narrow_of (width_encCL ..) hop) (half_encCL ..)
  literal := (literal_CL ..).trans hv
  fields := Fields.ofCSW (fieldCHigh_encCL (h := h0) ..) (fieldCLow_encCL (h := h1) ..) (immCW_enc (h := h2) (h0 := h3) ..)

theorem carries_CSD (f3 : BitVec 3) (imm : Word) (rs1 rs2 : Reg) (op2 : BitVec 2) (value : Word) (hop : op2 ≠ 3#2)
    (hv : encCL f3 0 0 0 0 op2 = value) (h0 : isPrime rs1 = true) (h1 : isPrime rs2 = true) (h2 : fitsZext 8 imm = true) (h3 : lowZero 3 imm = true) :
    Carries (encCL f3 (imm.extractLsb 5 3) rs1 (imm.extractLsb 7 6) rs2 op2) true 0x0000E003#32 value .csD { rs1 := rs1, rs2 := rs2, imm := imm } where
  width := narrow_of (width_encCL ..) hop
  whole := whole16_of (narrow_of (width_encCL ..) hop) (half_encCL ..)
  literal := (literal_CL ..).trans hv
  fields := Fields.ofCSD (fieldCHigh_encCL (h := h0) ..) (fieldCLow_encCL (h := h1) ..) (immCD_enc (h := h2) (h0 := h3) ..)

theorem carries_CA (f3 : BitVec 3) (b12 : BitVec 1) (f2 : BitVec 2) (rd : Reg) (g2 : BitVec 2) (rs2 : Reg) (op2 : BitVec 2) (value : Word) (hop : op2 ≠ 3#2)
    (hv : encCA f3 b12 f2 0 g2 0 op2 = value) (h0 : isPrime rd = true) (h1 : isPrime rs2 = true) :
    Carries (encCA f3 b12 f2 rd g2 rs2 op2) true 0x0000FC63#32 value .ca { rd := rd, rs2 := rs2 } where
  width := narrow_of (width_encCA ..) hop
  whole := whole16_of (narrow_of (width_encCA ..) hop) (half_encCA ..)
  literal := (literal_CA ..).trans hv
  fields := Fields.ofCA (fieldCHigh_encCA (h := h0) ..) (fieldCLow_encCA (h := h1) ..)

theorem carries_CBBR (f3 : BitVec 3) (imm : Word) (rs1 : Reg) (op2 : BitVec 2) (value : Word) (hop : op2 ≠ 3#2)
    (hv : encCB f3 0 0 0 op2 = value) (h0 : isPrime rs1 = true) (h1 : fitsSext 9 imm = true) (h2 : lowZero 1 imm = true) :
    Carries (encCB f3 (imm.extractLsb 8 8 ++ imm.extractLsb 4 3) rs1 (imm.extractLsb 7 6 ++ imm.extractLsb 2 1 ++ imm.extractLsb 5 5) op2) true 0x0000E003#32 value .cbBr { rs1 := rs1, imm := imm } where
  width := narrow_of (width_encCB ..) hop
  whole := whole16_of (narrow_of (width_encCB ..) hop) (half_encCB ..)
  literal := (literal_CB ..).trans hv
  fields := Fields.ofCBBR (fieldCHigh_encCB (h := h0) ..) (immCB_enc (h := h1) (h0 := h2) ..)

theorem carries_CBSH (f3 : BitVec 3) (shamt : BitVec 6) (f2 : BitVec 2) (rd : Reg) (op2 : BitVec 2) (value : Word) (hop : op2 ≠ 3#2)
    (hv : encCB f3 (0#1 ++ f2) 0 0 op2 = value) (h0 : isPrime rd = true) :
    Carries (encCB f3 (shamt.extractLsb 5 5 ++ f2) rd (shamt.extractLsb 4 0) op2) true 0x0000EC03#32 value .cbSh { rd := rd, shamt := shamt } where
  width := narrow_of (width_encCB ..) hop
  whole := whole16_of (narrow_of (width_encCB ..) hop) (half_encCB ..)
  literal := (literal_CBSh ..).trans hv
  fields := Fields.ofCBSH (fieldCHigh_encCB (h := h0) ..) (shamtC_encCB ..)

theorem carries_CBSH5 (f3 : BitVec 3) (shamt : BitVec 6) (f2 : BitVec 2) (rd : Reg) (op2 : BitVec 2) (value : Word) (hop : op2 ≠ 3#2)
    (hv : encCB f3 (0#1 ++ f2) 0 0 op2 = value) (h0 : isPrime rd = true) (h1 : fitsFive shamt = true) :
    Carries (encCB f3 (0#1 ++ f2) rd (shamt.extractLsb 4 0) op2) true 0x0000FC03#32 value .cbSh { rd := rd, shamt := shamt } where
  width := narrow_of (width_encCB ..) hop
  whole := whole16_of (narrow_of (width_encCB ..) hop) (half_encCB ..)
  literal := (literal_CBSh5 ..).trans hv
  fields := Fields.ofCBSH (fieldCHigh_encCB (h := h0) ..) (shamtC_encCB5 (h := h1) ..)

theorem carries_CBANDI (f3 : BitVec 3) (imm : Word) (f2 : BitVec 2) (rd : Reg) (op2 : BitVec 2) (value : Word) (hop : op2 ≠ 3#2)
    (hv : encCB f3 (0#1 ++ f2) 0 0 op2 = value) (h0 : isPrime rd = true) (h1 : fitsSext 6 imm = true) :
    Carries (encCB f3 (imm.extractLsb 5 5 ++ f2) rd (imm.extractLsb 4 0) op2) true 0x0000EC03#32 value .cbAndi { rd := rd, imm := imm } where
  width := narrow_of (width_encCB ..) hop
  whole := whole16_of (narrow_of (width_encCB ..) hop) (half_encCB ..)
  literal := (literal_CBSh ..).trans hv
  fields := Fields.ofCBANDI (fieldCHigh_encCB (h := h0) ..) (immCAndi_enc (h := h1) ..)

theorem carries_CJ (f3 : BitVec 3) (imm : Word) (op2 : BitVec 2) (value : Word) (hop : op2 ≠ 3#2)
    (hv : encCJ f3 0 op2 = value) (h0 : fitsSext 12 imm = true) (h1 : lowZero 1 imm = true) :
    Carries (encCJ f3 imm op2) true 0x0000E003#32 value .cj { imm := imm } where
  width := narrow_of (width_encCJ ..) hop
  whole := whole16_of (narrow_of (width_encCJ ..) hop) (half_encCJ ..)
  literal := (literal_CJ ..).trans hv
  fields := Fields.ofCJ (immCJ_enc (h := h0) (h0 := h1) ..)

/-! ## From a word to operands -/

theorem back_R (w : Word) (f7 : BitVec 7) (f3 : BitVec 3) (op : BitVec 7) (value : Word) (hv : encR f7 0 0 f3 0 op = value)
    (h : w &&& 0xFE00707F#32 = value) :
    encR f7 (fieldRs2 w) (fieldRs1 w) f3 (fieldRd w) op = w :=
  eq_of_masks ((literal_R ..).trans (hv.trans h.symm)) (operand_R ..)

theorem back_R2 (w : Word) (f7 : BitVec 7) (rs2 : Reg) (f3 : BitVec 3) (op : BitVec 7) (value : Word) (hv : encR f7 rs2 0 f3 0 op = value)
    (h : w &&& 0xFFF0707F#32 = value) :
    encR f7 rs2 (fieldRs1 w) f3 (fieldRd w) op = w :=
  eq_of_masks ((literal_R2 ..).trans (hv.trans h.symm)) (operand_R2 ..)

theorem back_RS (w : Word) (f7 : BitVec 7) (f3 : BitVec 3) (rd : Reg) (op : BitVec 7) (value : Word) (hv : encR f7 0 0 f3 rd op = value)
    (h : w &&& 0xFE007FFF#32 = value) :
    encR f7 (fieldRs2 w) (fieldRs1 w) f3 rd op = w :=
  eq_of_masks ((literal_Rs ..).trans (hv.trans h.symm)) (operand_Rs ..)

theorem back_RRM (w : Word) (f7 op : BitVec 7) (value : Word) (hv : encR f7 0 0 0 0 op = value)
    (h : w &&& 0xFE00007F#32 = value) :
    encR f7 (fieldRs2 w) (fieldRs1 w) (fieldRm w) (fieldRd w) op = w :=
  eq_of_masks ((literal_RRm ..).trans (hv.trans h.symm)) (operand_RRm ..)

theorem back_R2RM (w : Word) (f7 : BitVec 7) (rs2 : Reg) (op : BitVec 7) (value : Word) (hv : encR f7 rs2 0 0 0 op = value)
    (h : w &&& 0xFFF0007F#32 = value) :
    encR f7 rs2 (fieldRs1 w) (fieldRm w) (fieldRd w) op = w :=
  eq_of_masks ((literal_R2Rm ..).trans (hv.trans h.symm)) (operand_R2Rm ..)

theorem back_R4RM (w : Word) (f2 : BitVec 2) (op : BitVec 7) (value : Word) (hv : encR4 0 f2 0 0 0 0 op = value)
    (h : w &&& 0x0600007F#32 = value) :
    encR4 (fieldRs3 w) f2 (fieldRs2 w) (fieldRs1 w) (fieldRm w) (fieldRd w) op = w :=
  eq_of_masks ((literal_R4Rm ..).trans (hv.trans h.symm)) (operand_R4Rm ..)

theorem back_RAMO (w : Word) (f5 : BitVec 5) (f3 : BitVec 3) (op : BitVec 7) (value : Word) (hv : encAmo f5 false false 0 0 f3 0 op = value)
    (h : w &&& 0xF800707F#32 = value) :
    encAmo f5 (w.getLsbD 26) (w.getLsbD 25) (fieldRs2 w) (fieldRs1 w) f3 (fieldRd w) op = w :=
  eq_of_masks ((literal_Amo ..).trans (hv.trans h.symm)) (operand_Amo ..)

theorem back_RLR (w : Word) (f5 : BitVec 5) (rs2 : Reg) (f3 : BitVec 3) (op : BitVec 7) (value : Word) (hv : encAmo f5 false false rs2 0 f3 0 op = value)
    (h : w &&& 0xF9F0707F#32 = value) :
    encAmo f5 (w.getLsbD 26) (w.getLsbD 25) rs2 (fieldRs1 w) f3 (fieldRd w) op = w :=
  eq_of_masks ((literal_Lr ..).trans (hv.trans h.symm)) (operand_Lr ..)

theorem back_ICSR (w : Word) (f3 : BitVec 3) (op : BitVec 7) (value : Word) (hv : encCsr 0 0 f3 0 op = value)
    (h : w &&& 0x0000707F#32 = value) :
    encCsr (fieldCsr w) (fieldRs1 w) f3 (fieldRd w) op = w :=
  eq_of_masks ((literal_Csr ..).trans (hv.trans h.symm)) (operand_Csr ..)

theorem back_ICSRI (w : Word) (f3 : BitVec 3) (op : BitVec 7) (value : Word) (hv : encCsr 0 0 f3 0 op = value)
    (h : w &&& 0x0000707F#32 = value) :
    encCsr (fieldCsr w) ((immCsri w).extractLsb 4 0) f3 (fieldRd w) op = w :=
  eq_of_masks ((literal_Csr ..).trans (hv.trans h.symm)) (operand_Csri ..)

theorem back_I (w : Word) (f3 : BitVec 3) (op : BitVec 7) (value : Word) (hv : encI 0 0 f3 0 op = value)
    (h : w &&& 0x0000707F#32 = value) :
    encI (immI w) (fieldRs1 w) f3 (fieldRd w) op = w :=
  eq_of_masks ((literal_I ..).trans (hv.trans h.symm)) (operand_I ..)

theorem back_ISH5 (w : Word) (f7 : BitVec 7) (f3 : BitVec 3) (op : BitVec 7) (value : Word) (hv : encSh5 f7 0 0 f3 0 op = value)
    (h : w &&& 0xFE00707F#32 = value) :
    encSh5 f7 (shamt5 w) (fieldRs1 w) f3 (fieldRd w) op = w :=
  eq_of_masks ((literal_Sh5 ..).trans (hv.trans h.symm)) (operand_Sh5 ..)

theorem back_ISH6 (w : Word) (f6 : BitVec 6) (f3 : BitVec 3) (op : BitVec 7) (value : Word) (hv : encSh6 f6 0 0 f3 0 op = value)
    (h : w &&& 0xFC00707F#32 = value) :
    encSh6 f6 (shamt6 w) (fieldRs1 w) f3 (fieldRd w) op = w :=
  eq_of_masks ((literal_Sh6 ..).trans (hv.trans h.symm)) (operand_Sh6 ..)

theorem back_S (w : Word) (f3 : BitVec 3) (op : BitVec 7) (value : Word) (hv : encS 0 0 0 f3 op = value)
    (h : w &&& 0x0000707F#32 = value) :
    encS (immS w) (fieldRs2 w) (fieldRs1 w) f3 op = w :=
  eq_of_masks ((literal_S ..).trans (hv.trans h.symm)) (operand_S ..)

theorem back_B (w : Word) (f3 : BitVec 3) (op : BitVec 7) (value : Word) (hv : encB 0 0 0 f3 op = value)
    (h : w &&& 0x0000707F#32 = value) :
    encB (immB w) (fieldRs2 w) (fieldRs1 w) f3 op = w :=
  eq_of_masks ((literal_B ..).trans (hv.trans h.symm)) (operand_B ..)

theorem back_U (w : Word) (op : BitVec 7) (value : Word) (hv : encU 0 0 op = value)
    (h : w &&& 0x0000007F#32 = value) :
    encU (immU w) (fieldRd w) op = w :=
  eq_of_masks ((literal_U ..).trans (hv.trans h.symm)) (operand_U ..)

theorem back_J (w : Word) (op : BitVec 7) (value : Word) (hv : encJ 0 0 op = value)
    (h : w &&& 0x0000007F#32 = value) :
    encJ (immJ w) (fieldRd w) op = w :=
  eq_of_masks ((literal_J ..).trans (hv.trans h.symm)) (operand_J ..)

theorem back_CR (c : Half) (f3 : BitVec 3) (b12 : BitVec 1) (op2 : BitVec 2) (value : Word) (hv : encCR f3 b12 0 0 op2 = value)
    (h : compressed c &&& 0x0000F003#32 = value) :
    encCR f3 b12 (fieldCRd c) (fieldCRs2 c) op2 = compressed c :=
  eq_of_masks ((literal_CR ..).trans (hv.trans h.symm)) (operand_CR ..)

theorem back_CRJR (c : Half) (f3 : BitVec 3) (b12 : BitVec 1) (rs2 : Reg) (op2 : BitVec 2) (value : Word) (hv : encCR f3 b12 0 rs2 op2 = value)
    (h : compressed c &&& 0x0000F07F#32 = value) :
    encCR f3 b12 (fieldCRd c) rs2 op2 = compressed c :=
  eq_of_masks ((literal_CRJr ..).trans (hv.trans h.symm)) (operand_CRJr ..)

theorem back_CI (c : Half) (f3 : BitVec 3) (op2 : BitVec 2) (value : Word) (hv : encCI f3 0 0 0 op2 = value)
    (h : compressed c &&& 0x0000E003#32 = value) :
    encCI f3 ((immCI c).extractLsb 5 5) (fieldCRd c) ((immCI c).extractLsb 4 0) op2 = compressed c :=
  eq_of_masks ((literal_CI ..).trans (hv.trans h.symm)) (operand_CI ..)

theorem back_CILUI (c : Half) (f3 : BitVec 3) (op2 : BitVec 2) (value : Word) (hv : encCI f3 0 0 0 op2 = value)
    (h : compressed c &&& 0x0000E003#32 = value) :
    encCI f3 ((immCLui c).extractLsb 17 17) (fieldCRd c) ((immCLui c).extractLsb 16 12) op2 = compressed c :=
  eq_of_masks ((literal_CI ..).trans (hv.trans h.symm)) (operand_CILui ..)

theorem back_CIADDI16SP (c : Half) (f3 : BitVec 3) (rd : Reg) (op2 : BitVec 2) (value : Word) (hv : encCI f3 0 rd 0 op2 = value)
    (h : compressed c &&& 0x0000EF83#32 = value) :
    encCI f3 ((immCAddi16sp c).extractLsb 9 9) rd ((immCAddi16sp c).extractLsb 4 4 ++ (immCAddi16sp c).extractLsb 6 6 ++ (immCAddi16sp c).extractLsb 8 7 ++ (immCAddi16sp c).extractLsb 5 5) op2 = compressed c :=
  eq_of_masks ((literal_CIAddi16sp ..).trans (hv.trans h.symm)) (operand_CIAddi16sp ..)

theorem back_CISH (c : Half) (f3 : BitVec 3) (op2 : BitVec 2) (value : Word) (hv : encCI f3 0 0 0 op2 = value)
    (h : compressed c &&& 0x0000E003#32 = value) :
    encCI f3 ((shamtC c).extractLsb 5 5) (fieldCRd c) ((shamtC c).extractLsb 4 0) op2 = compressed c :=
  eq_of_masks ((literal_CI ..).trans (hv.trans h.symm)) (operand_CISh ..)

theorem back_CISH5 (c : Half) (f3 : BitVec 3) (op2 : BitVec 2) (value : Word) (hv : encCI f3 0#1 0 0 op2 = value)
    (h : compressed c &&& 0x0000F003#32 = value) :
    encCI f3 0#1 (fieldCRd c) ((shamtC c).extractLsb 4 0) op2 = compressed c :=
  eq_of_masks ((literal_CISh ..).trans (hv.trans h.symm)) (operand_CISh5 ..)

theorem back_CILWSP (c : Half) (f3 : BitVec 3) (op2 : BitVec 2) (value : Word) (hv : encCI f3 0 0 0 op2 = value)
    (h : compressed c &&& 0x0000E003#32 = value) :
    encCI f3 ((immCLwsp c).extractLsb 5 5) (fieldCRd c) ((immCLwsp c).extractLsb 4 2 ++ (immCLwsp c).extractLsb 7 6) op2 = compressed c :=
  eq_of_masks ((literal_CI ..).trans (hv.trans h.symm)) (operand_CILwsp ..)

theorem back_CILDSP (c : Half) (f3 : BitVec 3) (op2 : BitVec 2) (value : Word) (hv : encCI f3 0 0 0 op2 = value)
    (h : compressed c &&& 0x0000E003#32 = value) :
    encCI f3 ((immCLdsp c).extractLsb 5 5) (fieldCRd c) ((immCLdsp c).extractLsb 4 3 ++ (immCLdsp c).extractLsb 8 6) op2 = compressed c :=
  eq_of_masks ((literal_CI ..).trans (hv.trans h.symm)) (operand_CILdsp ..)

theorem back_CSSSWSP (c : Half) (f3 : BitVec 3) (op2 : BitVec 2) (value : Word) (hv : encCSS f3 0 0 op2 = value)
    (h : compressed c &&& 0x0000E003#32 = value) :
    encCSS f3 ((immCSwsp c).extractLsb 5 2 ++ (immCSwsp c).extractLsb 7 6) (fieldCRs2 c) op2 = compressed c :=
  eq_of_masks ((literal_CSS ..).trans (hv.trans h.symm)) (operand_CSwsp ..)

theorem back_CSSSDSP (c : Half) (f3 : BitVec 3) (op2 : BitVec 2) (value : Word) (hv : encCSS f3 0 0 op2 = value)
    (h : compressed c &&& 0x0000E003#32 = value) :
    encCSS f3 ((immCSdsp c).extractLsb 5 3 ++ (immCSdsp c).extractLsb 8 6) (fieldCRs2 c) op2 = compressed c :=
  eq_of_masks ((literal_CSS ..).trans (hv.trans h.symm)) (operand_CSdsp ..)

theorem back_CIW (c : Half) (f3 : BitVec 3) (op2 : BitVec 2) (value : Word) (hv : encCIW f3 0 0 op2 = value)
    (h : compressed c &&& 0x0000E003#32 = value) :
    encCIW f3 ((immCIW c).extractLsb 5 4 ++ (immCIW c).extractLsb 9 6 ++ (immCIW c).extractLsb 2 2 ++ (immCIW c).extractLsb 3 3) (fieldCLow c) op2 = compressed c :=
  eq_of_masks ((literal_CIW ..).trans (hv.trans h.symm)) (operand_CIW ..)

theorem back_CLW (c : Half) (f3 : BitVec 3) (op2 : BitVec 2) (value : Word) (hv : encCL f3 0 0 0 0 op2 = value)
    (h : compressed c &&& 0x0000E003#32 = value) :
    encCL f3 ((immCW c).extractLsb 5 3) (fieldCHigh c) ((immCW c).extractLsb 2 2 ++ (immCW c).extractLsb 6 6) (fieldCLow c) op2 = compressed c :=
  eq_of_masks ((literal_CL ..).trans (hv.trans h.symm)) (operand_CLW ..)

theorem back_CLD (c : Half) (f3 : BitVec 3) (op2 : BitVec 2) (value : Word) (hv : encCL f3 0 0 0 0 op2 = value)
    (h : compressed c &&& 0x0000E003#32 = value) :
    encCL f3 ((immCD c).extractLsb 5 3) (fieldCHigh c) ((immCD c).extractLsb 7 6) (fieldCLow c) op2 = compressed c :=
  eq_of_masks ((literal_CL ..).trans (hv.trans h.symm)) (operand_CLD ..)

theorem back_CSW (c : Half) (f3 : BitVec 3) (op2 : BitVec 2) (value : Word) (hv : encCL f3 0 0 0 0 op2 = value)
    (h : compressed c &&& 0x0000E003#32 = value) :
    encCL f3 ((immCW c).extractLsb 5 3) (fieldCHigh c) ((immCW c).extractLsb 2 2 ++ (immCW c).extractLsb 6 6) (fieldCLow c) op2 = compressed c :=
  eq_of_masks ((literal_CL ..).trans (hv.trans h.symm)) (operand_CLW ..)

theorem back_CSD (c : Half) (f3 : BitVec 3) (op2 : BitVec 2) (value : Word) (hv : encCL f3 0 0 0 0 op2 = value)
    (h : compressed c &&& 0x0000E003#32 = value) :
    encCL f3 ((immCD c).extractLsb 5 3) (fieldCHigh c) ((immCD c).extractLsb 7 6) (fieldCLow c) op2 = compressed c :=
  eq_of_masks ((literal_CL ..).trans (hv.trans h.symm)) (operand_CLD ..)

theorem back_CA (c : Half) (f3 : BitVec 3) (b12 : BitVec 1) (f2 g2 op2 : BitVec 2) (value : Word) (hv : encCA f3 b12 f2 0 g2 0 op2 = value)
    (h : compressed c &&& 0x0000FC63#32 = value) :
    encCA f3 b12 f2 (fieldCHigh c) g2 (fieldCLow c) op2 = compressed c :=
  eq_of_masks ((literal_CA ..).trans (hv.trans h.symm)) (operand_CA ..)

theorem back_CBBR (c : Half) (f3 : BitVec 3) (op2 : BitVec 2) (value : Word) (hv : encCB f3 0 0 0 op2 = value)
    (h : compressed c &&& 0x0000E003#32 = value) :
    encCB f3 ((immCB c).extractLsb 8 8 ++ (immCB c).extractLsb 4 3) (fieldCHigh c) ((immCB c).extractLsb 7 6 ++ (immCB c).extractLsb 2 1 ++ (immCB c).extractLsb 5 5) op2 = compressed c :=
  eq_of_masks ((literal_CB ..).trans (hv.trans h.symm)) (operand_CB ..)

theorem back_CBSH (c : Half) (f3 : BitVec 3) (f2 op2 : BitVec 2) (value : Word) (hv : encCB f3 (0#1 ++ f2) 0 0 op2 = value)
    (h : compressed c &&& 0x0000EC03#32 = value) :
    encCB f3 ((shamtC c).extractLsb 5 5 ++ f2) (fieldCHigh c) ((shamtC c).extractLsb 4 0) op2 = compressed c :=
  eq_of_masks ((literal_CBSh ..).trans (hv.trans h.symm)) (operand_CBSh ..)

theorem back_CBSH5 (c : Half) (f3 : BitVec 3) (f2 op2 : BitVec 2) (value : Word) (hv : encCB f3 (0#1 ++ f2) 0 0 op2 = value)
    (h : compressed c &&& 0x0000FC03#32 = value) :
    encCB f3 (0#1 ++ f2) (fieldCHigh c) ((shamtC c).extractLsb 4 0) op2 = compressed c :=
  eq_of_masks ((literal_CBSh5 ..).trans (hv.trans h.symm)) (operand_CBSh5 ..)

theorem back_CBANDI (c : Half) (f3 : BitVec 3) (f2 op2 : BitVec 2) (value : Word) (hv : encCB f3 (0#1 ++ f2) 0 0 op2 = value)
    (h : compressed c &&& 0x0000EC03#32 = value) :
    encCB f3 ((immCI c).extractLsb 5 5 ++ f2) (fieldCHigh c) ((immCI c).extractLsb 4 0) op2 = compressed c :=
  eq_of_masks ((literal_CBSh ..).trans (hv.trans h.symm)) (operand_CAndi ..)

theorem back_CJ (c : Half) (f3 : BitVec 3) (op2 : BitVec 2) (value : Word) (hv : encCJ f3 0 op2 = value)
    (h : compressed c &&& 0x0000E003#32 = value) :
    encCJ f3 (immCJ c) op2 = compressed c :=
  eq_of_masks ((literal_CJ ..).trans (hv.trans h.symm)) (operand_CJ ..)

end Sys2Proof.Laws
end

