-- ==== Sys2Proof/Laws/PerInstr.lean ====
section
/-! SUPPORT. For every instruction: its row of the table, and that its encoding carries the row's literals and its operands. -/

namespace Sys2Proof.Laws

open Sys2Proof.Machine

/-- The instruction's row is in the table at its number, its word carries the row's literals, and the row's tag reads back the
operands, from which the row makes the instruction again. -/
def Row.Statement (i : Instr) : Prop :=
  WellFormed i = true →
    ∃ r, opcodeTable[i.rowNumber]? = some r ∧ Carries (encode i) r.w16 r.mask r.value r.tag i.fields ∧ r.make i.fields = i

theorem Row.lui (rd : Reg) (imm : Word) : Row.Statement (.lui rd imm) := fun h =>
  ⟨_, rfl, carries_U (hop := by decide) (hv := rfl) (h0 := h) .., rfl⟩

theorem Row.auipc (rd : Reg) (imm : Word) : Row.Statement (.auipc rd imm) := fun h =>
  ⟨_, rfl, carries_U (hop := by decide) (hv := rfl) (h0 := h) .., rfl⟩

theorem Row.jal (rd : Reg) (imm : Word) : Row.Statement (.jal rd imm) := fun h => by
  simp only [WellFormed, Bool.and_eq_true] at h
  obtain ⟨a, b⟩ := h
  exact ⟨_, rfl, carries_J (hop := by decide) (hv := rfl) (h0 := a) (h1 := b) .., rfl⟩

theorem Row.jalr (rd rs1 : Reg) (imm : Word) : Row.Statement (.jalr rd rs1 imm) := fun h =>
  ⟨_, rfl, carries_I (hop := by decide) (hv := rfl) (h0 := h) .., rfl⟩

theorem Row.beq (rs1 rs2 : Reg) (imm : Word) : Row.Statement (.beq rs1 rs2 imm) := fun h => by
  simp only [WellFormed, Bool.and_eq_true] at h
  obtain ⟨a, b⟩ := h
  exact ⟨_, rfl, carries_B (hop := by decide) (hv := rfl) (h0 := a) (h1 := b) .., rfl⟩

theorem Row.bne (rs1 rs2 : Reg) (imm : Word) : Row.Statement (.bne rs1 rs2 imm) := fun h => by
  simp only [WellFormed, Bool.and_eq_true] at h
  obtain ⟨a, b⟩ := h
  exact ⟨_, rfl, carries_B (hop := by decide) (hv := rfl) (h0 := a) (h1 := b) .., rfl⟩

theorem Row.blt (rs1 rs2 : Reg) (imm : Word) : Row.Statement (.blt rs1 rs2 imm) := fun h => by
  simp only [WellFormed, Bool.and_eq_true] at h
  obtain ⟨a, b⟩ := h
  exact ⟨_, rfl, carries_B (hop := by decide) (hv := rfl) (h0 := a) (h1 := b) .., rfl⟩

theorem Row.bge (rs1 rs2 : Reg) (imm : Word) : Row.Statement (.bge rs1 rs2 imm) := fun h => by
  simp only [WellFormed, Bool.and_eq_true] at h
  obtain ⟨a, b⟩ := h
  exact ⟨_, rfl, carries_B (hop := by decide) (hv := rfl) (h0 := a) (h1 := b) .., rfl⟩

theorem Row.bltu (rs1 rs2 : Reg) (imm : Word) : Row.Statement (.bltu rs1 rs2 imm) := fun h => by
  simp only [WellFormed, Bool.and_eq_true] at h
  obtain ⟨a, b⟩ := h
  exact ⟨_, rfl, carries_B (hop := by decide) (hv := rfl) (h0 := a) (h1 := b) .., rfl⟩

theorem Row.bgeu (rs1 rs2 : Reg) (imm : Word) : Row.Statement (.bgeu rs1 rs2 imm) := fun h => by
  simp only [WellFormed, Bool.and_eq_true] at h
  obtain ⟨a, b⟩ := h
  exact ⟨_, rfl, carries_B (hop := by decide) (hv := rfl) (h0 := a) (h1 := b) .., rfl⟩

theorem Row.lb (rd rs1 : Reg) (imm : Word) : Row.Statement (.lb rd rs1 imm) := fun h =>
  ⟨_, rfl, carries_I (hop := by decide) (hv := rfl) (h0 := h) .., rfl⟩

theorem Row.lh (rd rs1 : Reg) (imm : Word) : Row.Statement (.lh rd rs1 imm) := fun h =>
  ⟨_, rfl, carries_I (hop := by decide) (hv := rfl) (h0 := h) .., rfl⟩

theorem Row.lw (rd rs1 : Reg) (imm : Word) : Row.Statement (.lw rd rs1 imm) := fun h =>
  ⟨_, rfl, carries_I (hop := by decide) (hv := rfl) (h0 := h) .., rfl⟩

theorem Row.lbu (rd rs1 : Reg) (imm : Word) : Row.Statement (.lbu rd rs1 imm) := fun h =>
  ⟨_, rfl, carries_I (hop := by decide) (hv := rfl) (h0 := h) .., rfl⟩

theorem Row.lhu (rd rs1 : Reg) (imm : Word) : Row.Statement (.lhu rd rs1 imm) := fun h =>
  ⟨_, rfl, carries_I (hop := by decide) (hv := rfl) (h0 := h) .., rfl⟩

theorem Row.sb (rs1 rs2 : Reg) (imm : Word) : Row.Statement (.sb rs1 rs2 imm) := fun h =>
  ⟨_, rfl, carries_S (hop := by decide) (hv := rfl) (h0 := h) .., rfl⟩

theorem Row.sh (rs1 rs2 : Reg) (imm : Word) : Row.Statement (.sh rs1 rs2 imm) := fun h =>
  ⟨_, rfl, carries_S (hop := by decide) (hv := rfl) (h0 := h) .., rfl⟩

theorem Row.sw (rs1 rs2 : Reg) (imm : Word) : Row.Statement (.sw rs1 rs2 imm) := fun h =>
  ⟨_, rfl, carries_S (hop := by decide) (hv := rfl) (h0 := h) .., rfl⟩

theorem Row.addi (rd rs1 : Reg) (imm : Word) : Row.Statement (.addi rd rs1 imm) := fun h =>
  ⟨_, rfl, carries_I (hop := by decide) (hv := rfl) (h0 := h) .., rfl⟩

theorem Row.slti (rd rs1 : Reg) (imm : Word) : Row.Statement (.slti rd rs1 imm) := fun h =>
  ⟨_, rfl, carries_I (hop := by decide) (hv := rfl) (h0 := h) .., rfl⟩

theorem Row.sltiu (rd rs1 : Reg) (imm : Word) : Row.Statement (.sltiu rd rs1 imm) := fun h =>
  ⟨_, rfl, carries_I (hop := by decide) (hv := rfl) (h0 := h) .., rfl⟩

theorem Row.xori (rd rs1 : Reg) (imm : Word) : Row.Statement (.xori rd rs1 imm) := fun h =>
  ⟨_, rfl, carries_I (hop := by decide) (hv := rfl) (h0 := h) .., rfl⟩

theorem Row.ori (rd rs1 : Reg) (imm : Word) : Row.Statement (.ori rd rs1 imm) := fun h =>
  ⟨_, rfl, carries_I (hop := by decide) (hv := rfl) (h0 := h) .., rfl⟩

theorem Row.andi (rd rs1 : Reg) (imm : Word) : Row.Statement (.andi rd rs1 imm) := fun h =>
  ⟨_, rfl, carries_I (hop := by decide) (hv := rfl) (h0 := h) .., rfl⟩

theorem Row.slli32 (rd rs1 : Reg) (shamt : BitVec 6) : Row.Statement (.slli32 rd rs1 shamt) := fun h =>
  ⟨_, rfl, carries_ISH5 (hop := by decide) (hv := rfl) (h0 := h) .., rfl⟩

theorem Row.srli32 (rd rs1 : Reg) (shamt : BitVec 6) : Row.Statement (.srli32 rd rs1 shamt) := fun h =>
  ⟨_, rfl, carries_ISH5 (hop := by decide) (hv := rfl) (h0 := h) .., rfl⟩

theorem Row.srai32 (rd rs1 : Reg) (shamt : BitVec 6) : Row.Statement (.srai32 rd rs1 shamt) := fun h =>
  ⟨_, rfl, carries_ISH5 (hop := by decide) (hv := rfl) (h0 := h) .., rfl⟩

theorem Row.add (rd rs1 rs2 : Reg) : Row.Statement (.add rd rs1 rs2) := fun _ =>
  ⟨_, rfl, carries_R (hop := by decide) (hv := rfl) .., rfl⟩

theorem Row.sub (rd rs1 rs2 : Reg) : Row.Statement (.sub rd rs1 rs2) := fun _ =>
  ⟨_, rfl, carries_R (hop := by decide) (hv := rfl) .., rfl⟩

theorem Row.sll (rd rs1 rs2 : Reg) : Row.Statement (.sll rd rs1 rs2) := fun _ =>
  ⟨_, rfl, carries_R (hop := by decide) (hv := rfl) .., rfl⟩

theorem Row.slt (rd rs1 rs2 : Reg) : Row.Statement (.slt rd rs1 rs2) := fun _ =>
  ⟨_, rfl, carries_R (hop := by decide) (hv := rfl) .., rfl⟩

theorem Row.sltu (rd rs1 rs2 : Reg) : Row.Statement (.sltu rd rs1 rs2) := fun _ =>
  ⟨_, rfl, carries_R (hop := by decide) (hv := rfl) .., rfl⟩

theorem Row.xor (rd rs1 rs2 : Reg) : Row.Statement (.xor rd rs1 rs2) := fun _ =>
  ⟨_, rfl, carries_R (hop := by decide) (hv := rfl) .., rfl⟩

theorem Row.srl (rd rs1 rs2 : Reg) : Row.Statement (.srl rd rs1 rs2) := fun _ =>
  ⟨_, rfl, carries_R (hop := by decide) (hv := rfl) .., rfl⟩

theorem Row.sra (rd rs1 rs2 : Reg) : Row.Statement (.sra rd rs1 rs2) := fun _ =>
  ⟨_, rfl, carries_R (hop := by decide) (hv := rfl) .., rfl⟩

theorem Row.or (rd rs1 rs2 : Reg) : Row.Statement (.or rd rs1 rs2) := fun _ =>
  ⟨_, rfl, carries_R (hop := by decide) (hv := rfl) .., rfl⟩

theorem Row.and (rd rs1 rs2 : Reg) : Row.Statement (.and rd rs1 rs2) := fun _ =>
  ⟨_, rfl, carries_R (hop := by decide) (hv := rfl) .., rfl⟩

theorem Row.fence (rd rs1 : Reg) (imm : Word) : Row.Statement (.fence rd rs1 imm) := fun h =>
  ⟨_, rfl, carries_I (hop := by decide) (hv := rfl) (h0 := h) .., rfl⟩

theorem Row.ecall : Row.Statement .ecall := fun _ =>
  ⟨_, rfl, ⟨by decide, by decide, by decide, rfl⟩, rfl⟩

theorem Row.ebreak : Row.Statement .ebreak := fun _ =>
  ⟨_, rfl, ⟨by decide, by decide, by decide, rfl⟩, rfl⟩

theorem Row.slli64 (rd rs1 : Reg) (shamt : BitVec 6) : Row.Statement (.slli64 rd rs1 shamt) := fun _ =>
  ⟨_, rfl, carries_ISH6 (hop := by decide) (hv := rfl) .., rfl⟩

theorem Row.srli64 (rd rs1 : Reg) (shamt : BitVec 6) : Row.Statement (.srli64 rd rs1 shamt) := fun _ =>
  ⟨_, rfl, carries_ISH6 (hop := by decide) (hv := rfl) .., rfl⟩

theorem Row.srai64 (rd rs1 : Reg) (shamt : BitVec 6) : Row.Statement (.srai64 rd rs1 shamt) := fun _ =>
  ⟨_, rfl, carries_ISH6 (hop := by decide) (hv := rfl) .., rfl⟩

theorem Row.lwu (rd rs1 : Reg) (imm : Word) : Row.Statement (.lwu rd rs1 imm) := fun h =>
  ⟨_, rfl, carries_I (hop := by decide) (hv := rfl) (h0 := h) .., rfl⟩

theorem Row.ld (rd rs1 : Reg) (imm : Word) : Row.Statement (.ld rd rs1 imm) := fun h =>
  ⟨_, rfl, carries_I (hop := by decide) (hv := rfl) (h0 := h) .., rfl⟩

theorem Row.sd (rs1 rs2 : Reg) (imm : Word) : Row.Statement (.sd rs1 rs2 imm) := fun h =>
  ⟨_, rfl, carries_S (hop := by decide) (hv := rfl) (h0 := h) .., rfl⟩

theorem Row.addiw (rd rs1 : Reg) (imm : Word) : Row.Statement (.addiw rd rs1 imm) := fun h =>
  ⟨_, rfl, carries_I (hop := by decide) (hv := rfl) (h0 := h) .., rfl⟩

theorem Row.slliw (rd rs1 : Reg) (shamt : BitVec 6) : Row.Statement (.slliw rd rs1 shamt) := fun h =>
  ⟨_, rfl, carries_ISH5 (hop := by decide) (hv := rfl) (h0 := h) .., rfl⟩

theorem Row.srliw (rd rs1 : Reg) (shamt : BitVec 6) : Row.Statement (.srliw rd rs1 shamt) := fun h =>
  ⟨_, rfl, carries_ISH5 (hop := by decide) (hv := rfl) (h0 := h) .., rfl⟩

theorem Row.sraiw (rd rs1 : Reg) (shamt : BitVec 6) : Row.Statement (.sraiw rd rs1 shamt) := fun h =>
  ⟨_, rfl, carries_ISH5 (hop := by decide) (hv := rfl) (h0 := h) .., rfl⟩

theorem Row.addw (rd rs1 rs2 : Reg) : Row.Statement (.addw rd rs1 rs2) := fun _ =>
  ⟨_, rfl, carries_R (hop := by decide) (hv := rfl) .., rfl⟩

theorem Row.subw (rd rs1 rs2 : Reg) : Row.Statement (.subw rd rs1 rs2) := fun _ =>
  ⟨_, rfl, carries_R (hop := by decide) (hv := rfl) .., rfl⟩

theorem Row.sllw (rd rs1 rs2 : Reg) : Row.Statement (.sllw rd rs1 rs2) := fun _ =>
  ⟨_, rfl, carries_R (hop := by decide) (hv := rfl) .., rfl⟩

theorem Row.srlw (rd rs1 rs2 : Reg) : Row.Statement (.srlw rd rs1 rs2) := fun _ =>
  ⟨_, rfl, carries_R (hop := by decide) (hv := rfl) .., rfl⟩

theorem Row.sraw (rd rs1 rs2 : Reg) : Row.Statement (.sraw rd rs1 rs2) := fun _ =>
  ⟨_, rfl, carries_R (hop := by decide) (hv := rfl) .., rfl⟩

theorem Row.fenceI : Row.Statement .fenceI := fun _ =>
  ⟨_, rfl, ⟨by decide, by decide, by decide, rfl⟩, rfl⟩

theorem Row.csrrw (rd rs1 : Reg) (csr : BitVec 12) : Row.Statement (.csrrw rd rs1 csr) := fun _ =>
  ⟨_, rfl, carries_ICSR (hop := by decide) (hv := rfl) .., rfl⟩

theorem Row.csrrs (rd rs1 : Reg) (csr : BitVec 12) : Row.Statement (.csrrs rd rs1 csr) := fun _ =>
  ⟨_, rfl, carries_ICSR (hop := by decide) (hv := rfl) .., rfl⟩

theorem Row.csrrc (rd rs1 : Reg) (csr : BitVec 12) : Row.Statement (.csrrc rd rs1 csr) := fun _ =>
  ⟨_, rfl, carries_ICSR (hop := by decide) (hv := rfl) .., rfl⟩

theorem Row.csrrwi (rd : Reg) (imm : Word) (csr : BitVec 12) : Row.Statement (.csrrwi rd imm csr) := fun h =>
  ⟨_, rfl, carries_ICSRI (hop := by decide) (hv := rfl) (h0 := h) .., rfl⟩

theorem Row.csrrsi (rd : Reg) (imm : Word) (csr : BitVec 12) : Row.Statement (.csrrsi rd imm csr) := fun h =>
  ⟨_, rfl, carries_ICSRI (hop := by decide) (hv := rfl) (h0 := h) .., rfl⟩

theorem Row.csrrci (rd : Reg) (imm : Word) (csr : BitVec 12) : Row.Statement (.csrrci rd imm csr) := fun h =>
  ⟨_, rfl, carries_ICSRI (hop := by decide) (hv := rfl) (h0 := h) .., rfl⟩

theorem Row.mul (rd rs1 rs2 : Reg) : Row.Statement (.mul rd rs1 rs2) := fun _ =>
  ⟨_, rfl, carries_R (hop := by decide) (hv := rfl) .., rfl⟩

theorem Row.mulh (rd rs1 rs2 : Reg) : Row.Statement (.mulh rd rs1 rs2) := fun _ =>
  ⟨_, rfl, carries_R (hop := by decide) (hv := rfl) .., rfl⟩

theorem Row.mulhsu (rd rs1 rs2 : Reg) : Row.Statement (.mulhsu rd rs1 rs2) := fun _ =>
  ⟨_, rfl, carries_R (hop := by decide) (hv := rfl) .., rfl⟩

theorem Row.mulhu (rd rs1 rs2 : Reg) : Row.Statement (.mulhu rd rs1 rs2) := fun _ =>
  ⟨_, rfl, carries_R (hop := by decide) (hv := rfl) .., rfl⟩

theorem Row.div (rd rs1 rs2 : Reg) : Row.Statement (.div rd rs1 rs2) := fun _ =>
  ⟨_, rfl, carries_R (hop := by decide) (hv := rfl) .., rfl⟩

theorem Row.divu (rd rs1 rs2 : Reg) : Row.Statement (.divu rd rs1 rs2) := fun _ =>
  ⟨_, rfl, carries_R (hop := by decide) (hv := rfl) .., rfl⟩

theorem Row.rem (rd rs1 rs2 : Reg) : Row.Statement (.rem rd rs1 rs2) := fun _ =>
  ⟨_, rfl, carries_R (hop := by decide) (hv := rfl) .., rfl⟩

theorem Row.remu (rd rs1 rs2 : Reg) : Row.Statement (.remu rd rs1 rs2) := fun _ =>
  ⟨_, rfl, carries_R (hop := by decide) (hv := rfl) .., rfl⟩

theorem Row.mulw (rd rs1 rs2 : Reg) : Row.Statement (.mulw rd rs1 rs2) := fun _ =>
  ⟨_, rfl, carries_R (hop := by decide) (hv := rfl) .., rfl⟩

theorem Row.divw (rd rs1 rs2 : Reg) : Row.Statement (.divw rd rs1 rs2) := fun _ =>
  ⟨_, rfl, carries_R (hop := by decide) (hv := rfl) .., rfl⟩

theorem Row.divuw (rd rs1 rs2 : Reg) : Row.Statement (.divuw rd rs1 rs2) := fun _ =>
  ⟨_, rfl, carries_R (hop := by decide) (hv := rfl) .., rfl⟩

theorem Row.remw (rd rs1 rs2 : Reg) : Row.Statement (.remw rd rs1 rs2) := fun _ =>
  ⟨_, rfl, carries_R (hop := by decide) (hv := rfl) .., rfl⟩

theorem Row.remuw (rd rs1 rs2 : Reg) : Row.Statement (.remuw rd rs1 rs2) := fun _ =>
  ⟨_, rfl, carries_R (hop := by decide) (hv := rfl) .., rfl⟩

theorem Row.lrW (rd rs1 : Reg) (aq rl : Bool) : Row.Statement (.lrW rd rs1 aq rl) := fun _ =>
  ⟨_, rfl, carries_RLR (hop := by decide) (hv := rfl) .., rfl⟩

theorem Row.scW (rd rs1 rs2 : Reg) (aq rl : Bool) : Row.Statement (.scW rd rs1 rs2 aq rl) := fun _ =>
  ⟨_, rfl, carries_RAMO (hop := by decide) (hv := rfl) .., rfl⟩

theorem Row.amoswapW (rd rs1 rs2 : Reg) (aq rl : Bool) : Row.Statement (.amoswapW rd rs1 rs2 aq rl) := fun _ =>
  ⟨_, rfl, carries_RAMO (hop := by decide) (hv := rfl) .., rfl⟩

theorem Row.amoaddW (rd rs1 rs2 : Reg) (aq rl : Bool) : Row.Statement (.amoaddW rd rs1 rs2 aq rl) := fun _ =>
  ⟨_, rfl, carries_RAMO (hop := by decide) (hv := rfl) .., rfl⟩

theorem Row.amoxorW (rd rs1 rs2 : Reg) (aq rl : Bool) : Row.Statement (.amoxorW rd rs1 rs2 aq rl) := fun _ =>
  ⟨_, rfl, carries_RAMO (hop := by decide) (hv := rfl) .., rfl⟩

theorem Row.amoandW (rd rs1 rs2 : Reg) (aq rl : Bool) : Row.Statement (.amoandW rd rs1 rs2 aq rl) := fun _ =>
  ⟨_, rfl, carries_RAMO (hop := by decide) (hv := rfl) .., rfl⟩

theorem Row.amoorW (rd rs1 rs2 : Reg) (aq rl : Bool) : Row.Statement (.amoorW rd rs1 rs2 aq rl) := fun _ =>
  ⟨_, rfl, carries_RAMO (hop := by decide) (hv := rfl) .., rfl⟩

theorem Row.amominW (rd rs1 rs2 : Reg) (aq rl : Bool) : Row.Statement (.amominW rd rs1 rs2 aq rl) := fun _ =>
  ⟨_, rfl, carries_RAMO (hop := by decide) (hv := rfl) .., rfl⟩

theorem Row.amomaxW (rd rs1 rs2 : Reg) (aq rl : Bool) : Row.Statement (.amomaxW rd rs1 rs2 aq rl) := fun _ =>
  ⟨_, rfl, carries_RAMO (hop := by decide) (hv := rfl) .., rfl⟩

theorem Row.amominuW (rd rs1 rs2 : Reg) (aq rl : Bool) : Row.Statement (.amominuW rd rs1 rs2 aq rl) := fun _ =>
  ⟨_, rfl, carries_RAMO (hop := by decide) (hv := rfl) .., rfl⟩

theorem Row.amomaxuW (rd rs1 rs2 : Reg) (aq rl : Bool) : Row.Statement (.amomaxuW rd rs1 rs2 aq rl) := fun _ =>
  ⟨_, rfl, carries_RAMO (hop := by decide) (hv := rfl) .., rfl⟩

theorem Row.lrD (rd rs1 : Reg) (aq rl : Bool) : Row.Statement (.lrD rd rs1 aq rl) := fun _ =>
  ⟨_, rfl, carries_RLR (hop := by decide) (hv := rfl) .., rfl⟩

theorem Row.scD (rd rs1 rs2 : Reg) (aq rl : Bool) : Row.Statement (.scD rd rs1 rs2 aq rl) := fun _ =>
  ⟨_, rfl, carries_RAMO (hop := by decide) (hv := rfl) .., rfl⟩

theorem Row.amoswapD (rd rs1 rs2 : Reg) (aq rl : Bool) : Row.Statement (.amoswapD rd rs1 rs2 aq rl) := fun _ =>
  ⟨_, rfl, carries_RAMO (hop := by decide) (hv := rfl) .., rfl⟩

theorem Row.amoaddD (rd rs1 rs2 : Reg) (aq rl : Bool) : Row.Statement (.amoaddD rd rs1 rs2 aq rl) := fun _ =>
  ⟨_, rfl, carries_RAMO (hop := by decide) (hv := rfl) .., rfl⟩

theorem Row.amoxorD (rd rs1 rs2 : Reg) (aq rl : Bool) : Row.Statement (.amoxorD rd rs1 rs2 aq rl) := fun _ =>
  ⟨_, rfl, carries_RAMO (hop := by decide) (hv := rfl) .., rfl⟩

theorem Row.amoandD (rd rs1 rs2 : Reg) (aq rl : Bool) : Row.Statement (.amoandD rd rs1 rs2 aq rl) := fun _ =>
  ⟨_, rfl, carries_RAMO (hop := by decide) (hv := rfl) .., rfl⟩

theorem Row.amoorD (rd rs1 rs2 : Reg) (aq rl : Bool) : Row.Statement (.amoorD rd rs1 rs2 aq rl) := fun _ =>
  ⟨_, rfl, carries_RAMO (hop := by decide) (hv := rfl) .., rfl⟩

theorem Row.amominD (rd rs1 rs2 : Reg) (aq rl : Bool) : Row.Statement (.amominD rd rs1 rs2 aq rl) := fun _ =>
  ⟨_, rfl, carries_RAMO (hop := by decide) (hv := rfl) .., rfl⟩

theorem Row.amomaxD (rd rs1 rs2 : Reg) (aq rl : Bool) : Row.Statement (.amomaxD rd rs1 rs2 aq rl) := fun _ =>
  ⟨_, rfl, carries_RAMO (hop := by decide) (hv := rfl) .., rfl⟩

theorem Row.amominuD (rd rs1 rs2 : Reg) (aq rl : Bool) : Row.Statement (.amominuD rd rs1 rs2 aq rl) := fun _ =>
  ⟨_, rfl, carries_RAMO (hop := by decide) (hv := rfl) .., rfl⟩

theorem Row.amomaxuD (rd rs1 rs2 : Reg) (aq rl : Bool) : Row.Statement (.amomaxuD rd rs1 rs2 aq rl) := fun _ =>
  ⟨_, rfl, carries_RAMO (hop := by decide) (hv := rfl) .., rfl⟩

theorem Row.flw (rd rs1 : Reg) (imm : Word) : Row.Statement (.flw rd rs1 imm) := fun h =>
  ⟨_, rfl, carries_I (hop := by decide) (hv := rfl) (h0 := h) .., rfl⟩

theorem Row.fsw (rs1 rs2 : Reg) (imm : Word) : Row.Statement (.fsw rs1 rs2 imm) := fun h =>
  ⟨_, rfl, carries_S (hop := by decide) (hv := rfl) (h0 := h) .., rfl⟩

theorem Row.fmaddS (rd rs1 rs2 rs3 : Reg) (rm : BitVec 3) : Row.Statement (.fmaddS rd rs1 rs2 rs3 rm) := fun _ =>
  ⟨_, rfl, carries_R4RM (hop := by decide) (hv := rfl) .., rfl⟩

theorem Row.fmsubS (rd rs1 rs2 rs3 : Reg) (rm : BitVec 3) : Row.Statement (.fmsubS rd rs1 rs2 rs3 rm) := fun _ =>
  ⟨_, rfl, carries_R4RM (hop := by decide) (hv := rfl) .., rfl⟩

theorem Row.fnmsubS (rd rs1 rs2 rs3 : Reg) (rm : BitVec 3) : Row.Statement (.fnmsubS rd rs1 rs2 rs3 rm) := fun _ =>
  ⟨_, rfl, carries_R4RM (hop := by decide) (hv := rfl) .., rfl⟩

theorem Row.fnmaddS (rd rs1 rs2 rs3 : Reg) (rm : BitVec 3) : Row.Statement (.fnmaddS rd rs1 rs2 rs3 rm) := fun _ =>
  ⟨_, rfl, carries_R4RM (hop := by decide) (hv := rfl) .., rfl⟩

theorem Row.faddS (rd rs1 rs2 : Reg) (rm : BitVec 3) : Row.Statement (.faddS rd rs1 rs2 rm) := fun _ =>
  ⟨_, rfl, carries_RRM (hop := by decide) (hv := rfl) .., rfl⟩

theorem Row.fsubS (rd rs1 rs2 : Reg) (rm : BitVec 3) : Row.Statement (.fsubS rd rs1 rs2 rm) := fun _ =>
  ⟨_, rfl, carries_RRM (hop := by decide) (hv := rfl) .., rfl⟩

theorem Row.fmulS (rd rs1 rs2 : Reg) (rm : BitVec 3) : Row.Statement (.fmulS rd rs1 rs2 rm) := fun _ =>
  ⟨_, rfl, carries_RRM (hop := by decide) (hv := rfl) .., rfl⟩

theorem Row.fdivS (rd rs1 rs2 : Reg) (rm : BitVec 3) : Row.Statement (.fdivS rd rs1 rs2 rm) := fun _ =>
  ⟨_, rfl, carries_RRM (hop := by decide) (hv := rfl) .., rfl⟩

theorem Row.fsqrtS (rd rs1 : Reg) (rm : BitVec 3) : Row.Statement (.fsqrtS rd rs1 rm) := fun _ =>
  ⟨_, rfl, carries_R2RM (hop := by decide) (hv := rfl) .., rfl⟩

theorem Row.fsgnjS (rd rs1 rs2 : Reg) : Row.Statement (.fsgnjS rd rs1 rs2) := fun _ =>
  ⟨_, rfl, carries_R (hop := by decide) (hv := rfl) .., rfl⟩

theorem Row.fsgnjnS (rd rs1 rs2 : Reg) : Row.Statement (.fsgnjnS rd rs1 rs2) := fun _ =>
  ⟨_, rfl, carries_R (hop := by decide) (hv := rfl) .., rfl⟩

theorem Row.fsgnjxS (rd rs1 rs2 : Reg) : Row.Statement (.fsgnjxS rd rs1 rs2) := fun _ =>
  ⟨_, rfl, carries_R (hop := by decide) (hv := rfl) .., rfl⟩

theorem Row.fminS (rd rs1 rs2 : Reg) : Row.Statement (.fminS rd rs1 rs2) := fun _ =>
  ⟨_, rfl, carries_R (hop := by decide) (hv := rfl) .., rfl⟩

theorem Row.fmaxS (rd rs1 rs2 : Reg) : Row.Statement (.fmaxS rd rs1 rs2) := fun _ =>
  ⟨_, rfl, carries_R (hop := by decide) (hv := rfl) .., rfl⟩

theorem Row.feqS (rd rs1 rs2 : Reg) : Row.Statement (.feqS rd rs1 rs2) := fun _ =>
  ⟨_, rfl, carries_R (hop := by decide) (hv := rfl) .., rfl⟩

theorem Row.fltS (rd rs1 rs2 : Reg) : Row.Statement (.fltS rd rs1 rs2) := fun _ =>
  ⟨_, rfl, carries_R (hop := by decide) (hv := rfl) .., rfl⟩

theorem Row.fleS (rd rs1 rs2 : Reg) : Row.Statement (.fleS rd rs1 rs2) := fun _ =>
  ⟨_, rfl, carries_R (hop := by decide) (hv := rfl) .., rfl⟩

theorem Row.fclassS (rd rs1 : Reg) : Row.Statement (.fclassS rd rs1) := fun _ =>
  ⟨_, rfl, carries_R2 (hop := by decide) (hv := rfl) .., rfl⟩

theorem Row.fcvtWS (rd rs1 : Reg) (rm : BitVec 3) : Row.Statement (.fcvtWS rd rs1 rm) := fun _ =>
  ⟨_, rfl, carries_R2RM (hop := by decide) (hv := rfl) .., rfl⟩

theorem Row.fcvtWUS (rd rs1 : Reg) (rm : BitVec 3) : Row.Statement (.fcvtWUS rd rs1 rm) := fun _ =>
  ⟨_, rfl, carries_R2RM (hop := by decide) (hv := rfl) .., rfl⟩

theorem Row.fcvtSW (rd rs1 : Reg) (rm : BitVec 3) : Row.Statement (.fcvtSW rd rs1 rm) := fun _ =>
  ⟨_, rfl, carries_R2RM (hop := by decide) (hv := rfl) .., rfl⟩

theorem Row.fcvtSWU (rd rs1 : Reg) (rm : BitVec 3) : Row.Statement (.fcvtSWU rd rs1 rm) := fun _ =>
  ⟨_, rfl, carries_R2RM (hop := by decide) (hv := rfl) .., rfl⟩

theorem Row.fmvXW (rd rs1 : Reg) : Row.Statement (.fmvXW rd rs1) := fun _ =>
  ⟨_, rfl, carries_R2 (hop := by decide) (hv := rfl) .., rfl⟩

theorem Row.fmvWX (rd rs1 : Reg) : Row.Statement (.fmvWX rd rs1) := fun _ =>
  ⟨_, rfl, carries_R2 (hop := by decide) (hv := rfl) .., rfl⟩

theorem Row.fcvtLS (rd rs1 : Reg) (rm : BitVec 3) : Row.Statement (.fcvtLS rd rs1 rm) := fun _ =>
  ⟨_, rfl, carries_R2RM (hop := by decide) (hv := rfl) .., rfl⟩

theorem Row.fcvtLUS (rd rs1 : Reg) (rm : BitVec 3) : Row.Statement (.fcvtLUS rd rs1 rm) := fun _ =>
  ⟨_, rfl, carries_R2RM (hop := by decide) (hv := rfl) .., rfl⟩

theorem Row.fcvtSL (rd rs1 : Reg) (rm : BitVec 3) : Row.Statement (.fcvtSL rd rs1 rm) := fun _ =>
  ⟨_, rfl, carries_R2RM (hop := by decide) (hv := rfl) .., rfl⟩

theorem Row.fcvtSLU (rd rs1 : Reg) (rm : BitVec 3) : Row.Statement (.fcvtSLU rd rs1 rm) := fun _ =>
  ⟨_, rfl, carries_R2RM (hop := by decide) (hv := rfl) .., rfl⟩

theorem Row.fld (rd rs1 : Reg) (imm : Word) : Row.Statement (.fld rd rs1 imm) := fun h =>
  ⟨_, rfl, carries_I (hop := by decide) (hv := rfl) (h0 := h) .., rfl⟩

theorem Row.fsd (rs1 rs2 : Reg) (imm : Word) : Row.Statement (.fsd rs1 rs2 imm) := fun h =>
  ⟨_, rfl, carries_S (hop := by decide) (hv := rfl) (h0 := h) .., rfl⟩

theorem Row.fmaddD (rd rs1 rs2 rs3 : Reg) (rm : BitVec 3) : Row.Statement (.fmaddD rd rs1 rs2 rs3 rm) := fun _ =>
  ⟨_, rfl, carries_R4RM (hop := by decide) (hv := rfl) .., rfl⟩

theorem Row.fmsubD (rd rs1 rs2 rs3 : Reg) (rm : BitVec 3) : Row.Statement (.fmsubD rd rs1 rs2 rs3 rm) := fun _ =>
  ⟨_, rfl, carries_R4RM (hop := by decide) (hv := rfl) .., rfl⟩

theorem Row.fnmsubD (rd rs1 rs2 rs3 : Reg) (rm : BitVec 3) : Row.Statement (.fnmsubD rd rs1 rs2 rs3 rm) := fun _ =>
  ⟨_, rfl, carries_R4RM (hop := by decide) (hv := rfl) .., rfl⟩

theorem Row.fnmaddD (rd rs1 rs2 rs3 : Reg) (rm : BitVec 3) : Row.Statement (.fnmaddD rd rs1 rs2 rs3 rm) := fun _ =>
  ⟨_, rfl, carries_R4RM (hop := by decide) (hv := rfl) .., rfl⟩

theorem Row.faddD (rd rs1 rs2 : Reg) (rm : BitVec 3) : Row.Statement (.faddD rd rs1 rs2 rm) := fun _ =>
  ⟨_, rfl, carries_RRM (hop := by decide) (hv := rfl) .., rfl⟩

theorem Row.fsubD (rd rs1 rs2 : Reg) (rm : BitVec 3) : Row.Statement (.fsubD rd rs1 rs2 rm) := fun _ =>
  ⟨_, rfl, carries_RRM (hop := by decide) (hv := rfl) .., rfl⟩

theorem Row.fmulD (rd rs1 rs2 : Reg) (rm : BitVec 3) : Row.Statement (.fmulD rd rs1 rs2 rm) := fun _ =>
  ⟨_, rfl, carries_RRM (hop := by decide) (hv := rfl) .., rfl⟩

theorem Row.fdivD (rd rs1 rs2 : Reg) (rm : BitVec 3) : Row.Statement (.fdivD rd rs1 rs2 rm) := fun _ =>
  ⟨_, rfl, carries_RRM (hop := by decide) (hv := rfl) .., rfl⟩

theorem Row.fsqrtD (rd rs1 : Reg) (rm : BitVec 3) : Row.Statement (.fsqrtD rd rs1 rm) := fun _ =>
  ⟨_, rfl, carries_R2RM (hop := by decide) (hv := rfl) .., rfl⟩

theorem Row.fsgnjD (rd rs1 rs2 : Reg) : Row.Statement (.fsgnjD rd rs1 rs2) := fun _ =>
  ⟨_, rfl, carries_R (hop := by decide) (hv := rfl) .., rfl⟩

theorem Row.fsgnjnD (rd rs1 rs2 : Reg) : Row.Statement (.fsgnjnD rd rs1 rs2) := fun _ =>
  ⟨_, rfl, carries_R (hop := by decide) (hv := rfl) .., rfl⟩

theorem Row.fsgnjxD (rd rs1 rs2 : Reg) : Row.Statement (.fsgnjxD rd rs1 rs2) := fun _ =>
  ⟨_, rfl, carries_R (hop := by decide) (hv := rfl) .., rfl⟩

theorem Row.fminD (rd rs1 rs2 : Reg) : Row.Statement (.fminD rd rs1 rs2) := fun _ =>
  ⟨_, rfl, carries_R (hop := by decide) (hv := rfl) .., rfl⟩

theorem Row.fmaxD (rd rs1 rs2 : Reg) : Row.Statement (.fmaxD rd rs1 rs2) := fun _ =>
  ⟨_, rfl, carries_R (hop := by decide) (hv := rfl) .., rfl⟩

theorem Row.fcvtSD (rd rs1 : Reg) (rm : BitVec 3) : Row.Statement (.fcvtSD rd rs1 rm) := fun _ =>
  ⟨_, rfl, carries_R2RM (hop := by decide) (hv := rfl) .., rfl⟩

theorem Row.fcvtDS (rd rs1 : Reg) (rm : BitVec 3) : Row.Statement (.fcvtDS rd rs1 rm) := fun _ =>
  ⟨_, rfl, carries_R2RM (hop := by decide) (hv := rfl) .., rfl⟩

theorem Row.feqD (rd rs1 rs2 : Reg) : Row.Statement (.feqD rd rs1 rs2) := fun _ =>
  ⟨_, rfl, carries_R (hop := by decide) (hv := rfl) .., rfl⟩

theorem Row.fltD (rd rs1 rs2 : Reg) : Row.Statement (.fltD rd rs1 rs2) := fun _ =>
  ⟨_, rfl, carries_R (hop := by decide) (hv := rfl) .., rfl⟩

theorem Row.fleD (rd rs1 rs2 : Reg) : Row.Statement (.fleD rd rs1 rs2) := fun _ =>
  ⟨_, rfl, carries_R (hop := by decide) (hv := rfl) .., rfl⟩

theorem Row.fclassD (rd rs1 : Reg) : Row.Statement (.fclassD rd rs1) := fun _ =>
  ⟨_, rfl, carries_R2 (hop := by decide) (hv := rfl) .., rfl⟩

theorem Row.fcvtWD (rd rs1 : Reg) (rm : BitVec 3) : Row.Statement (.fcvtWD rd rs1 rm) := fun _ =>
  ⟨_, rfl, carries_R2RM (hop := by decide) (hv := rfl) .., rfl⟩

theorem Row.fcvtWUD (rd rs1 : Reg) (rm : BitVec 3) : Row.Statement (.fcvtWUD rd rs1 rm) := fun _ =>
  ⟨_, rfl, carries_R2RM (hop := by decide) (hv := rfl) .., rfl⟩

theorem Row.fcvtDW (rd rs1 : Reg) (rm : BitVec 3) : Row.Statement (.fcvtDW rd rs1 rm) := fun _ =>
  ⟨_, rfl, carries_R2RM (hop := by decide) (hv := rfl) .., rfl⟩

theorem Row.fcvtDWU (rd rs1 : Reg) (rm : BitVec 3) : Row.Statement (.fcvtDWU rd rs1 rm) := fun _ =>
  ⟨_, rfl, carries_R2RM (hop := by decide) (hv := rfl) .., rfl⟩

theorem Row.fcvtLD (rd rs1 : Reg) (rm : BitVec 3) : Row.Statement (.fcvtLD rd rs1 rm) := fun _ =>
  ⟨_, rfl, carries_R2RM (hop := by decide) (hv := rfl) .., rfl⟩

theorem Row.fcvtLUD (rd rs1 : Reg) (rm : BitVec 3) : Row.Statement (.fcvtLUD rd rs1 rm) := fun _ =>
  ⟨_, rfl, carries_R2RM (hop := by decide) (hv := rfl) .., rfl⟩

theorem Row.fmvXD (rd rs1 : Reg) : Row.Statement (.fmvXD rd rs1) := fun _ =>
  ⟨_, rfl, carries_R2 (hop := by decide) (hv := rfl) .., rfl⟩

theorem Row.fcvtDL (rd rs1 : Reg) (rm : BitVec 3) : Row.Statement (.fcvtDL rd rs1 rm) := fun _ =>
  ⟨_, rfl, carries_R2RM (hop := by decide) (hv := rfl) .., rfl⟩

theorem Row.fcvtDLU (rd rs1 : Reg) (rm : BitVec 3) : Row.Statement (.fcvtDLU rd rs1 rm) := fun _ =>
  ⟨_, rfl, carries_R2RM (hop := by decide) (hv := rfl) .., rfl⟩

theorem Row.fmvDX (rd rs1 : Reg) : Row.Statement (.fmvDX rd rs1) := fun _ =>
  ⟨_, rfl, carries_R2 (hop := by decide) (hv := rfl) .., rfl⟩

theorem Row.sret : Row.Statement .sret := fun _ =>
  ⟨_, rfl, ⟨by decide, by decide, by decide, rfl⟩, rfl⟩

theorem Row.mret : Row.Statement .mret := fun _ =>
  ⟨_, rfl, ⟨by decide, by decide, by decide, rfl⟩, rfl⟩

theorem Row.wfi : Row.Statement .wfi := fun _ =>
  ⟨_, rfl, ⟨by decide, by decide, by decide, rfl⟩, rfl⟩

theorem Row.sfenceVma (rs1 rs2 : Reg) : Row.Statement (.sfenceVma rs1 rs2) := fun _ =>
  ⟨_, rfl, carries_RS (hop := by decide) (hv := rfl) .., rfl⟩

theorem Row.cAddi4spn (rd : Reg) (imm : Word) : Row.Statement (.cAddi4spn rd imm) := fun h => by
  simp only [WellFormed, Bool.and_eq_true] at h
  obtain ⟨⟨a, b⟩, c⟩ := h
  exact ⟨_, rfl, carries_CIW (hop := by decide) (hv := rfl) (h0 := a) (h1 := b) (h2 := c) .., rfl⟩

theorem Row.cFld (rd rs1 : Reg) (imm : Word) : Row.Statement (.cFld rd rs1 imm) := fun h => by
  simp only [WellFormed, Bool.and_eq_true] at h
  obtain ⟨⟨⟨a, b⟩, c⟩, d⟩ := h
  exact ⟨_, rfl, carries_CLD (hop := by decide) (hv := rfl) (h0 := a) (h1 := b) (h2 := c) (h3 := d) .., rfl⟩

theorem Row.cLw (rd rs1 : Reg) (imm : Word) : Row.Statement (.cLw rd rs1 imm) := fun h => by
  simp only [WellFormed, Bool.and_eq_true] at h
  obtain ⟨⟨⟨a, b⟩, c⟩, d⟩ := h
  exact ⟨_, rfl, carries_CLW (hop := by decide) (hv := rfl) (h0 := a) (h1 := b) (h2 := c) (h3 := d) .., rfl⟩

theorem Row.cFlw (rd rs1 : Reg) (imm : Word) : Row.Statement (.cFlw rd rs1 imm) := fun h => by
  simp only [WellFormed, Bool.and_eq_true] at h
  obtain ⟨⟨⟨a, b⟩, c⟩, d⟩ := h
  exact ⟨_, rfl, carries_CLW (hop := by decide) (hv := rfl) (h0 := a) (h1 := b) (h2 := c) (h3 := d) .., rfl⟩

theorem Row.cLd (rd rs1 : Reg) (imm : Word) : Row.Statement (.cLd rd rs1 imm) := fun h => by
  simp only [WellFormed, Bool.and_eq_true] at h
  obtain ⟨⟨⟨a, b⟩, c⟩, d⟩ := h
  exact ⟨_, rfl, carries_CLD (hop := by decide) (hv := rfl) (h0 := a) (h1 := b) (h2 := c) (h3 := d) .., rfl⟩

theorem Row.cFsd (rs1 rs2 : Reg) (imm : Word) : Row.Statement (.cFsd rs1 rs2 imm) := fun h => by
  simp only [WellFormed, Bool.and_eq_true] at h
  obtain ⟨⟨⟨a, b⟩, c⟩, d⟩ := h
  exact ⟨_, rfl, carries_CSD (hop := by decide) (hv := rfl) (h0 := a) (h1 := b) (h2 := c) (h3 := d) .., rfl⟩

theorem Row.cSw (rs1 rs2 : Reg) (imm : Word) : Row.Statement (.cSw rs1 rs2 imm) := fun h => by
  simp only [WellFormed, Bool.and_eq_true] at h
  obtain ⟨⟨⟨a, b⟩, c⟩, d⟩ := h
  exact ⟨_, rfl, carries_CSW (hop := by decide) (hv := rfl) (h0 := a) (h1 := b) (h2 := c) (h3 := d) .., rfl⟩

theorem Row.cFsw (rs1 rs2 : Reg) (imm : Word) : Row.Statement (.cFsw rs1 rs2 imm) := fun h => by
  simp only [WellFormed, Bool.and_eq_true] at h
  obtain ⟨⟨⟨a, b⟩, c⟩, d⟩ := h
  exact ⟨_, rfl, carries_CSW (hop := by decide) (hv := rfl) (h0 := a) (h1 := b) (h2 := c) (h3 := d) .., rfl⟩

theorem Row.cSd (rs1 rs2 : Reg) (imm : Word) : Row.Statement (.cSd rs1 rs2 imm) := fun h => by
  simp only [WellFormed, Bool.and_eq_true] at h
  obtain ⟨⟨⟨a, b⟩, c⟩, d⟩ := h
  exact ⟨_, rfl, carries_CSD (hop := by decide) (hv := rfl) (h0 := a) (h1 := b) (h2 := c) (h3 := d) .., rfl⟩

theorem Row.cNop : Row.Statement .cNop := fun _ =>
  ⟨_, rfl, ⟨by decide, by decide, by decide, rfl⟩, rfl⟩

theorem Row.cAddi (rd : Reg) (imm : Word) : Row.Statement (.cAddi rd imm) := fun h => by
  simp only [WellFormed, Bool.and_eq_true] at h
  obtain ⟨a, _⟩ := h
  exact ⟨_, rfl, carries_CI (hop := by decide) (hv := rfl) (h0 := a) .., rfl⟩

theorem Row.cJal (imm : Word) : Row.Statement (.cJal imm) := fun h => by
  simp only [WellFormed, Bool.and_eq_true] at h
  obtain ⟨a, b⟩ := h
  exact ⟨_, rfl, carries_CJ (hop := by decide) (hv := rfl) (h0 := a) (h1 := b) .., rfl⟩

theorem Row.cAddiw (rd : Reg) (imm : Word) : Row.Statement (.cAddiw rd imm) := fun h =>
  ⟨_, rfl, carries_CI (hop := by decide) (hv := rfl) (h0 := h) .., rfl⟩

theorem Row.cLi (rd : Reg) (imm : Word) : Row.Statement (.cLi rd imm) := fun h =>
  ⟨_, rfl, carries_CI (hop := by decide) (hv := rfl) (h0 := h) .., rfl⟩

theorem Row.cAddi16sp (imm : Word) : Row.Statement (.cAddi16sp imm) := fun h => by
  simp only [WellFormed, Bool.and_eq_true] at h
  obtain ⟨a, b⟩ := h
  exact ⟨_, rfl, carries_CIADDI16SP (hop := by decide) (hv := rfl) (h0 := a) (h1 := b) .., rfl⟩

theorem Row.cLui (rd : Reg) (imm : Word) : Row.Statement (.cLui rd imm) := fun h => by
  simp only [WellFormed, Bool.and_eq_true] at h
  obtain ⟨⟨a, b⟩, _⟩ := h
  exact ⟨_, rfl, carries_CILUI (hop := by decide) (hv := rfl) (h0 := a) (h1 := b) .., rfl⟩

theorem Row.cSrli32 (rd : Reg) (shamt : BitVec 6) : Row.Statement (.cSrli32 rd shamt) := fun h => by
  simp only [WellFormed, Bool.and_eq_true] at h
  obtain ⟨a, b⟩ := h
  exact ⟨_, rfl, carries_CBSH5 (hop := by decide) (hv := rfl) (h0 := a) (h1 := b) .., rfl⟩

theorem Row.cSrli64 (rd : Reg) (shamt : BitVec 6) : Row.Statement (.cSrli64 rd shamt) := fun h =>
  ⟨_, rfl, carries_CBSH (hop := by decide) (hv := rfl) (h0 := h) .., rfl⟩

theorem Row.cSrai32 (rd : Reg) (shamt : BitVec 6) : Row.Statement (.cSrai32 rd shamt) := fun h => by
  simp only [WellFormed, Bool.and_eq_true] at h
  obtain ⟨a, b⟩ := h
  exact ⟨_, rfl, carries_CBSH5 (hop := by decide) (hv := rfl) (h0 := a) (h1 := b) .., rfl⟩

theorem Row.cSrai64 (rd : Reg) (shamt : BitVec 6) : Row.Statement (.cSrai64 rd shamt) := fun h =>
  ⟨_, rfl, carries_CBSH (hop := by decide) (hv := rfl) (h0 := h) .., rfl⟩

theorem Row.cAndi (rd : Reg) (imm : Word) : Row.Statement (.cAndi rd imm) := fun h => by
  simp only [WellFormed, Bool.and_eq_true] at h
  obtain ⟨a, b⟩ := h
  exact ⟨_, rfl, carries_CBANDI (hop := by decide) (hv := rfl) (h0 := a) (h1 := b) .., rfl⟩

theorem Row.cSub (rd rs2 : Reg) : Row.Statement (.cSub rd rs2) := fun h => by
  simp only [WellFormed, Bool.and_eq_true] at h
  obtain ⟨a, b⟩ := h
  exact ⟨_, rfl, carries_CA (hop := by decide) (hv := rfl) (h0 := a) (h1 := b) .., rfl⟩

theorem Row.cXor (rd rs2 : Reg) : Row.Statement (.cXor rd rs2) := fun h => by
  simp only [WellFormed, Bool.and_eq_true] at h
  obtain ⟨a, b⟩ := h
  exact ⟨_, rfl, carries_CA (hop := by decide) (hv := rfl) (h0 := a) (h1 := b) .., rfl⟩

theorem Row.cOr (rd rs2 : Reg) : Row.Statement (.cOr rd rs2) := fun h => by
  simp only [WellFormed, Bool.and_eq_true] at h
  obtain ⟨a, b⟩ := h
  exact ⟨_, rfl, carries_CA (hop := by decide) (hv := rfl) (h0 := a) (h1 := b) .., rfl⟩

theorem Row.cAnd (rd rs2 : Reg) : Row.Statement (.cAnd rd rs2) := fun h => by
  simp only [WellFormed, Bool.and_eq_true] at h
  obtain ⟨a, b⟩ := h
  exact ⟨_, rfl, carries_CA (hop := by decide) (hv := rfl) (h0 := a) (h1 := b) .., rfl⟩

theorem Row.cSubw (rd rs2 : Reg) : Row.Statement (.cSubw rd rs2) := fun h => by
  simp only [WellFormed, Bool.and_eq_true] at h
  obtain ⟨a, b⟩ := h
  exact ⟨_, rfl, carries_CA (hop := by decide) (hv := rfl) (h0 := a) (h1 := b) .., rfl⟩

theorem Row.cAddw (rd rs2 : Reg) : Row.Statement (.cAddw rd rs2) := fun h => by
  simp only [WellFormed, Bool.and_eq_true] at h
  obtain ⟨a, b⟩ := h
  exact ⟨_, rfl, carries_CA (hop := by decide) (hv := rfl) (h0 := a) (h1 := b) .., rfl⟩

theorem Row.cJ (imm : Word) : Row.Statement (.cJ imm) := fun h => by
  simp only [WellFormed, Bool.and_eq_true] at h
  obtain ⟨a, b⟩ := h
  exact ⟨_, rfl, carries_CJ (hop := by decide) (hv := rfl) (h0 := a) (h1 := b) .., rfl⟩

theorem Row.cBeqz (rs1 : Reg) (imm : Word) : Row.Statement (.cBeqz rs1 imm) := fun h => by
  simp only [WellFormed, Bool.and_eq_true] at h
  obtain ⟨⟨a, b⟩, c⟩ := h
  exact ⟨_, rfl, carries_CBBR (hop := by decide) (hv := rfl) (h0 := a) (h1 := b) (h2 := c) .., rfl⟩

theorem Row.cBnez (rs1 : Reg) (imm : Word) : Row.Statement (.cBnez rs1 imm) := fun h => by
  simp only [WellFormed, Bool.and_eq_true] at h
  obtain ⟨⟨a, b⟩, c⟩ := h
  exact ⟨_, rfl, carries_CBBR (hop := by decide) (hv := rfl) (h0 := a) (h1 := b) (h2 := c) .., rfl⟩

theorem Row.cSlli32 (rd : Reg) (shamt : BitVec 6) : Row.Statement (.cSlli32 rd shamt) := fun h =>
  ⟨_, rfl, carries_CISH5 (hop := by decide) (hv := rfl) (h0 := h) .., rfl⟩

theorem Row.cSlli64 (rd : Reg) (shamt : BitVec 6) : Row.Statement (.cSlli64 rd shamt) := fun _ =>
  ⟨_, rfl, carries_CISH (hop := by decide) (hv := rfl) .., rfl⟩

theorem Row.cFldsp (rd : Reg) (imm : Word) : Row.Statement (.cFldsp rd imm) := fun h => by
  simp only [WellFormed, Bool.and_eq_true] at h
  obtain ⟨a, b⟩ := h
  exact ⟨_, rfl, carries_CILDSP (hop := by decide) (hv := rfl) (h0 := a) (h1 := b) .., rfl⟩

theorem Row.cLwsp (rd : Reg) (imm : Word) : Row.Statement (.cLwsp rd imm) := fun h => by
  simp only [WellFormed, Bool.and_eq_true] at h
  obtain ⟨a, b⟩ := h
  exact ⟨_, rfl, carries_CILWSP (hop := by decide) (hv := rfl) (h0 := a) (h1 := b) .., rfl⟩

theorem Row.cFlwsp (rd : Reg) (imm : Word) : Row.Statement (.cFlwsp rd imm) := fun h => by
  simp only [WellFormed, Bool.and_eq_true] at h
  obtain ⟨a, b⟩ := h
  exact ⟨_, rfl, carries_CILWSP (hop := by decide) (hv := rfl) (h0 := a) (h1 := b) .., rfl⟩

theorem Row.cLdsp (rd : Reg) (imm : Word) : Row.Statement (.cLdsp rd imm) := fun h => by
  simp only [WellFormed, Bool.and_eq_true] at h
  obtain ⟨a, b⟩ := h
  exact ⟨_, rfl, carries_CILDSP (hop := by decide) (hv := rfl) (h0 := a) (h1 := b) .., rfl⟩

theorem Row.cEbreak : Row.Statement .cEbreak := fun _ =>
  ⟨_, rfl, ⟨by decide, by decide, by decide, rfl⟩, rfl⟩

theorem Row.cJr (rs1 : Reg) : Row.Statement (.cJr rs1) := fun _ =>
  ⟨_, rfl, carries_CRJR (hop := by decide) (hv := rfl) .., rfl⟩

theorem Row.cMv (rd rs2 : Reg) : Row.Statement (.cMv rd rs2) := fun _ =>
  ⟨_, rfl, carries_CR (hop := by decide) (hv := rfl) .., rfl⟩

theorem Row.cJalr (rs1 : Reg) : Row.Statement (.cJalr rs1) := fun _ =>
  ⟨_, rfl, carries_CRJR (hop := by decide) (hv := rfl) .., rfl⟩

theorem Row.cAdd (rd rs2 : Reg) : Row.Statement (.cAdd rd rs2) := fun _ =>
  ⟨_, rfl, carries_CR (hop := by decide) (hv := rfl) .., rfl⟩

theorem Row.cFsdsp (rs2 : Reg) (imm : Word) : Row.Statement (.cFsdsp rs2 imm) := fun h => by
  simp only [WellFormed, Bool.and_eq_true] at h
  obtain ⟨a, b⟩ := h
  exact ⟨_, rfl, carries_CSSSDSP (hop := by decide) (hv := rfl) (h0 := a) (h1 := b) .., rfl⟩

theorem Row.cSwsp (rs2 : Reg) (imm : Word) : Row.Statement (.cSwsp rs2 imm) := fun h => by
  simp only [WellFormed, Bool.and_eq_true] at h
  obtain ⟨a, b⟩ := h
  exact ⟨_, rfl, carries_CSSSWSP (hop := by decide) (hv := rfl) (h0 := a) (h1 := b) .., rfl⟩

theorem Row.cFswsp (rs2 : Reg) (imm : Word) : Row.Statement (.cFswsp rs2 imm) := fun h => by
  simp only [WellFormed, Bool.and_eq_true] at h
  obtain ⟨a, b⟩ := h
  exact ⟨_, rfl, carries_CSSSWSP (hop := by decide) (hv := rfl) (h0 := a) (h1 := b) .., rfl⟩

theorem Row.cSdsp (rs2 : Reg) (imm : Word) : Row.Statement (.cSdsp rs2 imm) := fun h => by
  simp only [WellFormed, Bool.and_eq_true] at h
  obtain ⟨a, b⟩ := h
  exact ⟨_, rfl, carries_CSSSDSP (hop := by decide) (hv := rfl) (h0 := a) (h1 := b) .., rfl⟩

/-- Every instruction has its row. -/
theorem row_of (i : Instr) : Row.Statement i := by
  cases i with
  | lui rd imm => exact Row.lui rd imm
  | auipc rd imm => exact Row.auipc rd imm
  | jal rd imm => exact Row.jal rd imm
  | jalr rd rs1 imm => exact Row.jalr rd rs1 imm
  | beq rs1 rs2 imm => exact Row.beq rs1 rs2 imm
  | bne rs1 rs2 imm => exact Row.bne rs1 rs2 imm
  | blt rs1 rs2 imm => exact Row.blt rs1 rs2 imm
  | bge rs1 rs2 imm => exact Row.bge rs1 rs2 imm
  | bltu rs1 rs2 imm => exact Row.bltu rs1 rs2 imm
  | bgeu rs1 rs2 imm => exact Row.bgeu rs1 rs2 imm
  | lb rd rs1 imm => exact Row.lb rd rs1 imm
  | lh rd rs1 imm => exact Row.lh rd rs1 imm
  | lw rd rs1 imm => exact Row.lw rd rs1 imm
  | lbu rd rs1 imm => exact Row.lbu rd rs1 imm
  | lhu rd rs1 imm => exact Row.lhu rd rs1 imm
  | sb rs1 rs2 imm => exact Row.sb rs1 rs2 imm
  | sh rs1 rs2 imm => exact Row.sh rs1 rs2 imm
  | sw rs1 rs2 imm => exact Row.sw rs1 rs2 imm
  | addi rd rs1 imm => exact Row.addi rd rs1 imm
  | slti rd rs1 imm => exact Row.slti rd rs1 imm
  | sltiu rd rs1 imm => exact Row.sltiu rd rs1 imm
  | xori rd rs1 imm => exact Row.xori rd rs1 imm
  | ori rd rs1 imm => exact Row.ori rd rs1 imm
  | andi rd rs1 imm => exact Row.andi rd rs1 imm
  | slli32 rd rs1 shamt => exact Row.slli32 rd rs1 shamt
  | srli32 rd rs1 shamt => exact Row.srli32 rd rs1 shamt
  | srai32 rd rs1 shamt => exact Row.srai32 rd rs1 shamt
  | add rd rs1 rs2 => exact Row.add rd rs1 rs2
  | sub rd rs1 rs2 => exact Row.sub rd rs1 rs2
  | sll rd rs1 rs2 => exact Row.sll rd rs1 rs2
  | slt rd rs1 rs2 => exact Row.slt rd rs1 rs2
  | sltu rd rs1 rs2 => exact Row.sltu rd rs1 rs2
  | xor rd rs1 rs2 => exact Row.xor rd rs1 rs2
  | srl rd rs1 rs2 => exact Row.srl rd rs1 rs2
  | sra rd rs1 rs2 => exact Row.sra rd rs1 rs2
  | or rd rs1 rs2 => exact Row.or rd rs1 rs2
  | and rd rs1 rs2 => exact Row.and rd rs1 rs2
  | fence rd rs1 imm => exact Row.fence rd rs1 imm
  | ecall => exact Row.ecall
  | ebreak => exact Row.ebreak
  | slli64 rd rs1 shamt => exact Row.slli64 rd rs1 shamt
  | srli64 rd rs1 shamt => exact Row.srli64 rd rs1 shamt
  | srai64 rd rs1 shamt => exact Row.srai64 rd rs1 shamt
  | lwu rd rs1 imm => exact Row.lwu rd rs1 imm
  | ld rd rs1 imm => exact Row.ld rd rs1 imm
  | sd rs1 rs2 imm => exact Row.sd rs1 rs2 imm
  | addiw rd rs1 imm => exact Row.addiw rd rs1 imm
  | slliw rd rs1 shamt => exact Row.slliw rd rs1 shamt
  | srliw rd rs1 shamt => exact Row.srliw rd rs1 shamt
  | sraiw rd rs1 shamt => exact Row.sraiw rd rs1 shamt
  | addw rd rs1 rs2 => exact Row.addw rd rs1 rs2
  | subw rd rs1 rs2 => exact Row.subw rd rs1 rs2
  | sllw rd rs1 rs2 => exact Row.sllw rd rs1 rs2
  | srlw rd rs1 rs2 => exact Row.srlw rd rs1 rs2
  | sraw rd rs1 rs2 => exact Row.sraw rd rs1 rs2
  | fenceI => exact Row.fenceI
  | csrrw rd rs1 csr => exact Row.csrrw rd rs1 csr
  | csrrs rd rs1 csr => exact Row.csrrs rd rs1 csr
  | csrrc rd rs1 csr => exact Row.csrrc rd rs1 csr
  | csrrwi rd imm csr => exact Row.csrrwi rd imm csr
  | csrrsi rd imm csr => exact Row.csrrsi rd imm csr
  | csrrci rd imm csr => exact Row.csrrci rd imm csr
  | mul rd rs1 rs2 => exact Row.mul rd rs1 rs2
  | mulh rd rs1 rs2 => exact Row.mulh rd rs1 rs2
  | mulhsu rd rs1 rs2 => exact Row.mulhsu rd rs1 rs2
  | mulhu rd rs1 rs2 => exact Row.mulhu rd rs1 rs2
  | div rd rs1 rs2 => exact Row.div rd rs1 rs2
  | divu rd rs1 rs2 => exact Row.divu rd rs1 rs2
  | rem rd rs1 rs2 => exact Row.rem rd rs1 rs2
  | remu rd rs1 rs2 => exact Row.remu rd rs1 rs2
  | mulw rd rs1 rs2 => exact Row.mulw rd rs1 rs2
  | divw rd rs1 rs2 => exact Row.divw rd rs1 rs2
  | divuw rd rs1 rs2 => exact Row.divuw rd rs1 rs2
  | remw rd rs1 rs2 => exact Row.remw rd rs1 rs2
  | remuw rd rs1 rs2 => exact Row.remuw rd rs1 rs2
  | lrW rd rs1 aq rl => exact Row.lrW rd rs1 aq rl
  | scW rd rs1 rs2 aq rl => exact Row.scW rd rs1 rs2 aq rl
  | amoswapW rd rs1 rs2 aq rl => exact Row.amoswapW rd rs1 rs2 aq rl
  | amoaddW rd rs1 rs2 aq rl => exact Row.amoaddW rd rs1 rs2 aq rl
  | amoxorW rd rs1 rs2 aq rl => exact Row.amoxorW rd rs1 rs2 aq rl
  | amoandW rd rs1 rs2 aq rl => exact Row.amoandW rd rs1 rs2 aq rl
  | amoorW rd rs1 rs2 aq rl => exact Row.amoorW rd rs1 rs2 aq rl
  | amominW rd rs1 rs2 aq rl => exact Row.amominW rd rs1 rs2 aq rl
  | amomaxW rd rs1 rs2 aq rl => exact Row.amomaxW rd rs1 rs2 aq rl
  | amominuW rd rs1 rs2 aq rl => exact Row.amominuW rd rs1 rs2 aq rl
  | amomaxuW rd rs1 rs2 aq rl => exact Row.amomaxuW rd rs1 rs2 aq rl
  | lrD rd rs1 aq rl => exact Row.lrD rd rs1 aq rl
  | scD rd rs1 rs2 aq rl => exact Row.scD rd rs1 rs2 aq rl
  | amoswapD rd rs1 rs2 aq rl => exact Row.amoswapD rd rs1 rs2 aq rl
  | amoaddD rd rs1 rs2 aq rl => exact Row.amoaddD rd rs1 rs2 aq rl
  | amoxorD rd rs1 rs2 aq rl => exact Row.amoxorD rd rs1 rs2 aq rl
  | amoandD rd rs1 rs2 aq rl => exact Row.amoandD rd rs1 rs2 aq rl
  | amoorD rd rs1 rs2 aq rl => exact Row.amoorD rd rs1 rs2 aq rl
  | amominD rd rs1 rs2 aq rl => exact Row.amominD rd rs1 rs2 aq rl
  | amomaxD rd rs1 rs2 aq rl => exact Row.amomaxD rd rs1 rs2 aq rl
  | amominuD rd rs1 rs2 aq rl => exact Row.amominuD rd rs1 rs2 aq rl
  | amomaxuD rd rs1 rs2 aq rl => exact Row.amomaxuD rd rs1 rs2 aq rl
  | flw rd rs1 imm => exact Row.flw rd rs1 imm
  | fsw rs1 rs2 imm => exact Row.fsw rs1 rs2 imm
  | fmaddS rd rs1 rs2 rs3 rm => exact Row.fmaddS rd rs1 rs2 rs3 rm
  | fmsubS rd rs1 rs2 rs3 rm => exact Row.fmsubS rd rs1 rs2 rs3 rm
  | fnmsubS rd rs1 rs2 rs3 rm => exact Row.fnmsubS rd rs1 rs2 rs3 rm
  | fnmaddS rd rs1 rs2 rs3 rm => exact Row.fnmaddS rd rs1 rs2 rs3 rm
  | faddS rd rs1 rs2 rm => exact Row.faddS rd rs1 rs2 rm
  | fsubS rd rs1 rs2 rm => exact Row.fsubS rd rs1 rs2 rm
  | fmulS rd rs1 rs2 rm => exact Row.fmulS rd rs1 rs2 rm
  | fdivS rd rs1 rs2 rm => exact Row.fdivS rd rs1 rs2 rm
  | fsqrtS rd rs1 rm => exact Row.fsqrtS rd rs1 rm
  | fsgnjS rd rs1 rs2 => exact Row.fsgnjS rd rs1 rs2
  | fsgnjnS rd rs1 rs2 => exact Row.fsgnjnS rd rs1 rs2
  | fsgnjxS rd rs1 rs2 => exact Row.fsgnjxS rd rs1 rs2
  | fminS rd rs1 rs2 => exact Row.fminS rd rs1 rs2
  | fmaxS rd rs1 rs2 => exact Row.fmaxS rd rs1 rs2
  | feqS rd rs1 rs2 => exact Row.feqS rd rs1 rs2
  | fltS rd rs1 rs2 => exact Row.fltS rd rs1 rs2
  | fleS rd rs1 rs2 => exact Row.fleS rd rs1 rs2
  | fclassS rd rs1 => exact Row.fclassS rd rs1
  | fcvtWS rd rs1 rm => exact Row.fcvtWS rd rs1 rm
  | fcvtWUS rd rs1 rm => exact Row.fcvtWUS rd rs1 rm
  | fcvtSW rd rs1 rm => exact Row.fcvtSW rd rs1 rm
  | fcvtSWU rd rs1 rm => exact Row.fcvtSWU rd rs1 rm
  | fmvXW rd rs1 => exact Row.fmvXW rd rs1
  | fmvWX rd rs1 => exact Row.fmvWX rd rs1
  | fcvtLS rd rs1 rm => exact Row.fcvtLS rd rs1 rm
  | fcvtLUS rd rs1 rm => exact Row.fcvtLUS rd rs1 rm
  | fcvtSL rd rs1 rm => exact Row.fcvtSL rd rs1 rm
  | fcvtSLU rd rs1 rm => exact Row.fcvtSLU rd rs1 rm
  | fld rd rs1 imm => exact Row.fld rd rs1 imm
  | fsd rs1 rs2 imm => exact Row.fsd rs1 rs2 imm
  | fmaddD rd rs1 rs2 rs3 rm => exact Row.fmaddD rd rs1 rs2 rs3 rm
  | fmsubD rd rs1 rs2 rs3 rm => exact Row.fmsubD rd rs1 rs2 rs3 rm
  | fnmsubD rd rs1 rs2 rs3 rm => exact Row.fnmsubD rd rs1 rs2 rs3 rm
  | fnmaddD rd rs1 rs2 rs3 rm => exact Row.fnmaddD rd rs1 rs2 rs3 rm
  | faddD rd rs1 rs2 rm => exact Row.faddD rd rs1 rs2 rm
  | fsubD rd rs1 rs2 rm => exact Row.fsubD rd rs1 rs2 rm
  | fmulD rd rs1 rs2 rm => exact Row.fmulD rd rs1 rs2 rm
  | fdivD rd rs1 rs2 rm => exact Row.fdivD rd rs1 rs2 rm
  | fsqrtD rd rs1 rm => exact Row.fsqrtD rd rs1 rm
  | fsgnjD rd rs1 rs2 => exact Row.fsgnjD rd rs1 rs2
  | fsgnjnD rd rs1 rs2 => exact Row.fsgnjnD rd rs1 rs2
  | fsgnjxD rd rs1 rs2 => exact Row.fsgnjxD rd rs1 rs2
  | fminD rd rs1 rs2 => exact Row.fminD rd rs1 rs2
  | fmaxD rd rs1 rs2 => exact Row.fmaxD rd rs1 rs2
  | fcvtSD rd rs1 rm => exact Row.fcvtSD rd rs1 rm
  | fcvtDS rd rs1 rm => exact Row.fcvtDS rd rs1 rm
  | feqD rd rs1 rs2 => exact Row.feqD rd rs1 rs2
  | fltD rd rs1 rs2 => exact Row.fltD rd rs1 rs2
  | fleD rd rs1 rs2 => exact Row.fleD rd rs1 rs2
  | fclassD rd rs1 => exact Row.fclassD rd rs1
  | fcvtWD rd rs1 rm => exact Row.fcvtWD rd rs1 rm
  | fcvtWUD rd rs1 rm => exact Row.fcvtWUD rd rs1 rm
  | fcvtDW rd rs1 rm => exact Row.fcvtDW rd rs1 rm
  | fcvtDWU rd rs1 rm => exact Row.fcvtDWU rd rs1 rm
  | fcvtLD rd rs1 rm => exact Row.fcvtLD rd rs1 rm
  | fcvtLUD rd rs1 rm => exact Row.fcvtLUD rd rs1 rm
  | fmvXD rd rs1 => exact Row.fmvXD rd rs1
  | fcvtDL rd rs1 rm => exact Row.fcvtDL rd rs1 rm
  | fcvtDLU rd rs1 rm => exact Row.fcvtDLU rd rs1 rm
  | fmvDX rd rs1 => exact Row.fmvDX rd rs1
  | sret => exact Row.sret
  | mret => exact Row.mret
  | wfi => exact Row.wfi
  | sfenceVma rs1 rs2 => exact Row.sfenceVma rs1 rs2
  | cAddi4spn rd imm => exact Row.cAddi4spn rd imm
  | cFld rd rs1 imm => exact Row.cFld rd rs1 imm
  | cLw rd rs1 imm => exact Row.cLw rd rs1 imm
  | cFlw rd rs1 imm => exact Row.cFlw rd rs1 imm
  | cLd rd rs1 imm => exact Row.cLd rd rs1 imm
  | cFsd rs1 rs2 imm => exact Row.cFsd rs1 rs2 imm
  | cSw rs1 rs2 imm => exact Row.cSw rs1 rs2 imm
  | cFsw rs1 rs2 imm => exact Row.cFsw rs1 rs2 imm
  | cSd rs1 rs2 imm => exact Row.cSd rs1 rs2 imm
  | cNop => exact Row.cNop
  | cAddi rd imm => exact Row.cAddi rd imm
  | cJal imm => exact Row.cJal imm
  | cAddiw rd imm => exact Row.cAddiw rd imm
  | cLi rd imm => exact Row.cLi rd imm
  | cAddi16sp imm => exact Row.cAddi16sp imm
  | cLui rd imm => exact Row.cLui rd imm
  | cSrli32 rd shamt => exact Row.cSrli32 rd shamt
  | cSrli64 rd shamt => exact Row.cSrli64 rd shamt
  | cSrai32 rd shamt => exact Row.cSrai32 rd shamt
  | cSrai64 rd shamt => exact Row.cSrai64 rd shamt
  | cAndi rd imm => exact Row.cAndi rd imm
  | cSub rd rs2 => exact Row.cSub rd rs2
  | cXor rd rs2 => exact Row.cXor rd rs2
  | cOr rd rs2 => exact Row.cOr rd rs2
  | cAnd rd rs2 => exact Row.cAnd rd rs2
  | cSubw rd rs2 => exact Row.cSubw rd rs2
  | cAddw rd rs2 => exact Row.cAddw rd rs2
  | cJ imm => exact Row.cJ imm
  | cBeqz rs1 imm => exact Row.cBeqz rs1 imm
  | cBnez rs1 imm => exact Row.cBnez rs1 imm
  | cSlli32 rd shamt => exact Row.cSlli32 rd shamt
  | cSlli64 rd shamt => exact Row.cSlli64 rd shamt
  | cFldsp rd imm => exact Row.cFldsp rd imm
  | cLwsp rd imm => exact Row.cLwsp rd imm
  | cFlwsp rd imm => exact Row.cFlwsp rd imm
  | cLdsp rd imm => exact Row.cLdsp rd imm
  | cEbreak => exact Row.cEbreak
  | cJr rs1 => exact Row.cJr rs1
  | cMv rd rs2 => exact Row.cMv rd rs2
  | cJalr rs1 => exact Row.cJalr rs1
  | cAdd rd rs2 => exact Row.cAdd rd rs2
  | cFsdsp rs2 imm => exact Row.cFsdsp rs2 imm
  | cSwsp rs2 imm => exact Row.cSwsp rs2 imm
  | cFswsp rs2 imm => exact Row.cFswsp rs2 imm
  | cSdsp rs2 imm => exact Row.cSdsp rs2 imm

end Sys2Proof.Laws
end

