-- ==== Sys2Proof/Laws/Table.lean ====
section
/-! SUPPORT. The table as a whole: which rows overlap, where the first match of an encoded instruction falls in a reference ROM,
and that a word with a row's literals is the encoding of the instruction the row makes from it. -/

namespace Sys2Proof.Laws

open Sys2Proof.Machine

/-! ## Overlaps -/

/-- Two rows that one reference catalog holds, of one width class, whose literals leave a word for both. -/
def collide (a b : TableRow) : Bool :=
  ((a.on32 && b.on32) || (a.on64 && b.on64)) && (a.w16 == b.w16 && overlaps a.entry b.entry)

/-- The numbers of the rows before number `n` that collide with the row `n`. -/
def collidersOf (n : Nat) : List Nat :=
  match opcodeTable[n]? with
  | some b => (List.range n).filter (fun j => (opcodeTable[j]?.map (collide · b)).getD false)
  | none => []

/-- The rows that earlier rows collide with: C.ADDI, C.LUI, C.MV, C.JALR, C.ADD (R81). -/
def expectedColliders : Nat → List Nat
  | 173 => [172]
  | 178 => [177]
  | 201 => [200]
  | 202 => [199]
  | 203 => [199, 202]
  | _ => []

theorem colliders_low : ∀ n ∈ List.range' 0 104, collidersOf n = expectedColliders n := by decide +kernel
theorem colliders_high : ∀ n ∈ List.range' 104 104, collidersOf n = expectedColliders n := by decide +kernel

theorem opcodeTable_length : opcodeTable.length = 208 := by decide +kernel

theorem collide_mem {j n : Nat} {a b : TableRow} (ha : opcodeTable[j]? = some a) (hb : opcodeTable[n]? = some b)
    (hj : j < n) (h : collide a b = true) : j ∈ expectedColliders n := by
  have hn : n < 208 := opcodeTable_length ▸ (List.getElem?_eq_some_iff.mp hb).1
  have e : collidersOf n = expectedColliders n := by
    by_cases hl : n < 104
    · exact colliders_low n (by simp [List.mem_range'_1, hl])
    · exact colliders_high n (by simp [List.mem_range'_1]; omega)
  rw [← e, collidersOf, hb]
  simp [hj, ha, h]

theorem admits_both {a b : TableRow} {x : XLen} (ha : a.admits x = true) (hb : b.admits x = true) :
    ((a.on32 && b.on32) || (a.on64 && b.on64)) = true := by
  cases x <;> simp_all [TableRow.admits]

/-- An earlier row of the catalog that matches a word of a later row is one of the five kinds of R81. -/
theorem match_mem {x : XLen} {j n : Nat} {a b : TableRow} {w : Word} (ha : opcodeTable[j]? = some a)
    (hb : opcodeTable[n]? = some b) (hax : a.admits x = true) (hbx : b.admits x = true) (hj : j < n)
    (hma : entryMatches a.entry w = true) (hmb : entryMatches b.entry w = true) : j ∈ expectedColliders n := by
  refine collide_mem ha hb hj ?_
  by_contra hc
  have h' : (a.entry.w16 == b.entry.w16 && overlaps a.entry b.entry) = false := by
    rw [collide, admits_both hax hbx] at hc
    simpa [TableRow.entry] using hc
  simp [not_both_match h' hma] at hmb

/-! ## The operand bits that tell the rows of R81 apart -/

theorem low_of_half {w v : Word} (hv : truncWord w &&& 0x0000FFFF#32 = v) (h4 : isLen4 w = false) : truncWord w = v := by
  rw [← hv, truncWord_half h4]
  apply BitVec.eq_of_getLsbD_eq; intro i hi
  interval_cases i <;> simp only [compressed, BitVec.getLsbD_append, BitVec.getLsbD_and] <;> simp

theorem rd_of_mask {w v : Word} (h : w &&& 0x0000EF83#32 = v) : fieldCRd (lowHalf w) = fieldCRd (lowHalf v) := by
  subst h
  apply BitVec.eq_of_getLsbD_eq; intro i hi
  interval_cases i <;> simp only [fieldCRd, lowHalf, BitVec.getLsbD_extractLsb, BitVec.getLsbD_and] <;> simp

theorem rs2_of_mask {w v : Word} (h : w &&& 0x0000F07F#32 = v) : fieldCRs2 (lowHalf w) = fieldCRs2 (lowHalf v) := by
  subst h
  apply BitVec.eq_of_getLsbD_eq; intro i hi
  interval_cases i <;> simp only [fieldCRs2, lowHalf, BitVec.getLsbD_extractLsb, BitVec.getLsbD_and] <;> simp

theorem whole_word {w v : Word} (h4 : isLen4 w = !true) (hw : truncWord w = w) (hl : w &&& 0x0000FFFF#32 = v) : w = v := by
  rw [← hw] at hl ⊢
  exact low_of_half (by simpa using hl) (by simpa using h4)

theorem collider_cAddi {rd : Reg} {imm : Word} {j : Nat} {a r : TableRow} (h : WellFormed (.cAddi rd imm) = true)
    (hr : opcodeTable[173]? = some r) (hc : Carries (encode (.cAddi rd imm)) r.w16 r.mask r.value r.tag (Instr.cAddi rd imm).fields)
    (hj : j ∈ [172]) (ha : opcodeTable[j]? = some a) (hl : encode (.cAddi rd imm) &&& a.entry.mask = a.entry.value) : False := by
  obtain rfl := Option.some.inj hr
  obtain rfl : j = 172 := by simpa using hj
  obtain rfl := Option.some.inj ha
  have e := whole_word hc.width hc.whole hl
  have hf := hc.fields
  rw [e] at hf
  obtain ⟨h1, h2⟩ : rd = 0#5 ∧ imm = 0#32 := ⟨(congrArg Fields.rd hf).symm, (congrArg Fields.imm hf).symm⟩
  subst h1 h2
  exact absurd h (by decide)

theorem collider_cLui {rd : Reg} {imm : Word} {j : Nat} {a r : TableRow} (h : WellFormed (.cLui rd imm) = true)
    (hr : opcodeTable[178]? = some r) (hc : Carries (encode (.cLui rd imm)) r.w16 r.mask r.value r.tag (Instr.cLui rd imm).fields)
    (hj : j ∈ [177]) (ha : opcodeTable[j]? = some a) (hl : encode (.cLui rd imm) &&& a.entry.mask = a.entry.value) : False := by
  obtain rfl := Option.some.inj hr
  obtain rfl : j = 177 := by simpa using hj
  obtain rfl := Option.some.inj ha
  have e : rd = 2#5 := (congrArg Fields.rd hc.fields).symm.trans (rd_of_mask hl)
  subst e
  simp [WellFormed] at h

theorem collider_cMv {rd rs2 : Reg} {j : Nat} {a r : TableRow} (h : WellFormed (.cMv rd rs2) = true)
    (hr : opcodeTable[201]? = some r) (hc : Carries (encode (.cMv rd rs2)) r.w16 r.mask r.value r.tag (Instr.cMv rd rs2).fields)
    (hj : j ∈ [200]) (ha : opcodeTable[j]? = some a) (hl : encode (.cMv rd rs2) &&& a.entry.mask = a.entry.value) : False := by
  obtain rfl := Option.some.inj hr
  obtain rfl : j = 200 := by simpa using hj
  obtain rfl := Option.some.inj ha
  have e : rs2 = 0#5 := (congrArg Fields.rs2 hc.fields).symm.trans (rs2_of_mask hl)
  subst e
  simp [WellFormed] at h

theorem collider_cJalr {rs1 : Reg} {j : Nat} {a r : TableRow} (h : WellFormed (.cJalr rs1) = true)
    (hr : opcodeTable[202]? = some r) (hc : Carries (encode (.cJalr rs1)) r.w16 r.mask r.value r.tag (Instr.cJalr rs1).fields)
    (hj : j ∈ [199]) (ha : opcodeTable[j]? = some a) (hl : encode (.cJalr rs1) &&& a.entry.mask = a.entry.value) : False := by
  obtain rfl := Option.some.inj hr
  obtain rfl : j = 199 := by simpa using hj
  obtain rfl := Option.some.inj ha
  have e := whole_word hc.width hc.whole hl
  have hf := hc.fields
  rw [e] at hf
  have h1 : rs1 = 0#5 := (congrArg Fields.rs1 hf).symm
  subst h1
  exact absurd h (by decide)

theorem collider_cAdd {rd rs2 : Reg} {j : Nat} {a r : TableRow} (h : WellFormed (.cAdd rd rs2) = true)
    (hr : opcodeTable[203]? = some r) (hc : Carries (encode (.cAdd rd rs2)) r.w16 r.mask r.value r.tag (Instr.cAdd rd rs2).fields)
    (hj : j ∈ [199, 202]) (ha : opcodeTable[j]? = some a) (hl : encode (.cAdd rd rs2) &&& a.entry.mask = a.entry.value) : False := by
  obtain rfl := Option.some.inj hr
  have e : rs2 = 0#5 := by
    obtain rfl | rfl : j = 199 ∨ j = 202 := by simpa using hj
    · obtain rfl := Option.some.inj ha
      have e := whole_word hc.width hc.whole hl
      have hf := hc.fields
      rw [e] at hf
      exact (congrArg Fields.rs2 hf).symm
    · obtain rfl := Option.some.inj ha
      exact (congrArg Fields.rs2 hc.fields).symm.trans (rs2_of_mask hl)
  subst e
  simp [WellFormed] at h

/-- The word of a well-formed instruction matches no row that collides with its own. -/
theorem no_collider {i : Instr} (h : WellFormed i = true) {j : Nat} {a : TableRow} (hj : j ∈ expectedColliders i.rowNumber)
    (ha : opcodeTable[j]? = some a) : entryMatches a.entry (encode i) = false := by
  obtain ⟨r, hr, hc, _⟩ := row_of i h
  have none_of : expectedColliders i.rowNumber = [] → entryMatches a.entry (encode i) = false := fun e => by simp [e] at hj
  refine Bool.eq_false_iff.mpr fun hm => ?_
  have hl := ((entryMatches_iff _ _).mp hm).2
  rw [hc.whole] at hl
  cases i with
  | lui => exact absurd hm (by simp [none_of rfl])
  | auipc => exact absurd hm (by simp [none_of rfl])
  | jal => exact absurd hm (by simp [none_of rfl])
  | jalr => exact absurd hm (by simp [none_of rfl])
  | beq => exact absurd hm (by simp [none_of rfl])
  | bne => exact absurd hm (by simp [none_of rfl])
  | blt => exact absurd hm (by simp [none_of rfl])
  | bge => exact absurd hm (by simp [none_of rfl])
  | bltu => exact absurd hm (by simp [none_of rfl])
  | bgeu => exact absurd hm (by simp [none_of rfl])
  | lb => exact absurd hm (by simp [none_of rfl])
  | lh => exact absurd hm (by simp [none_of rfl])
  | lw => exact absurd hm (by simp [none_of rfl])
  | lbu => exact absurd hm (by simp [none_of rfl])
  | lhu => exact absurd hm (by simp [none_of rfl])
  | sb => exact absurd hm (by simp [none_of rfl])
  | sh => exact absurd hm (by simp [none_of rfl])
  | sw => exact absurd hm (by simp [none_of rfl])
  | addi => exact absurd hm (by simp [none_of rfl])
  | slti => exact absurd hm (by simp [none_of rfl])
  | sltiu => exact absurd hm (by simp [none_of rfl])
  | xori => exact absurd hm (by simp [none_of rfl])
  | ori => exact absurd hm (by simp [none_of rfl])
  | andi => exact absurd hm (by simp [none_of rfl])
  | slli32 => exact absurd hm (by simp [none_of rfl])
  | srli32 => exact absurd hm (by simp [none_of rfl])
  | srai32 => exact absurd hm (by simp [none_of rfl])
  | add => exact absurd hm (by simp [none_of rfl])
  | sub => exact absurd hm (by simp [none_of rfl])
  | sll => exact absurd hm (by simp [none_of rfl])
  | slt => exact absurd hm (by simp [none_of rfl])
  | sltu => exact absurd hm (by simp [none_of rfl])
  | xor => exact absurd hm (by simp [none_of rfl])
  | srl => exact absurd hm (by simp [none_of rfl])
  | sra => exact absurd hm (by simp [none_of rfl])
  | or => exact absurd hm (by simp [none_of rfl])
  | and => exact absurd hm (by simp [none_of rfl])
  | fence => exact absurd hm (by simp [none_of rfl])
  | ecall => exact absurd hm (by simp [none_of rfl])
  | ebreak => exact absurd hm (by simp [none_of rfl])
  | slli64 => exact absurd hm (by simp [none_of rfl])
  | srli64 => exact absurd hm (by simp [none_of rfl])
  | srai64 => exact absurd hm (by simp [none_of rfl])
  | lwu => exact absurd hm (by simp [none_of rfl])
  | ld => exact absurd hm (by simp [none_of rfl])
  | sd => exact absurd hm (by simp [none_of rfl])
  | addiw => exact absurd hm (by simp [none_of rfl])
  | slliw => exact absurd hm (by simp [none_of rfl])
  | srliw => exact absurd hm (by simp [none_of rfl])
  | sraiw => exact absurd hm (by simp [none_of rfl])
  | addw => exact absurd hm (by simp [none_of rfl])
  | subw => exact absurd hm (by simp [none_of rfl])
  | sllw => exact absurd hm (by simp [none_of rfl])
  | srlw => exact absurd hm (by simp [none_of rfl])
  | sraw => exact absurd hm (by simp [none_of rfl])
  | fenceI => exact absurd hm (by simp [none_of rfl])
  | csrrw => exact absurd hm (by simp [none_of rfl])
  | csrrs => exact absurd hm (by simp [none_of rfl])
  | csrrc => exact absurd hm (by simp [none_of rfl])
  | csrrwi => exact absurd hm (by simp [none_of rfl])
  | csrrsi => exact absurd hm (by simp [none_of rfl])
  | csrrci => exact absurd hm (by simp [none_of rfl])
  | mul => exact absurd hm (by simp [none_of rfl])
  | mulh => exact absurd hm (by simp [none_of rfl])
  | mulhsu => exact absurd hm (by simp [none_of rfl])
  | mulhu => exact absurd hm (by simp [none_of rfl])
  | div => exact absurd hm (by simp [none_of rfl])
  | divu => exact absurd hm (by simp [none_of rfl])
  | rem => exact absurd hm (by simp [none_of rfl])
  | remu => exact absurd hm (by simp [none_of rfl])
  | mulw => exact absurd hm (by simp [none_of rfl])
  | divw => exact absurd hm (by simp [none_of rfl])
  | divuw => exact absurd hm (by simp [none_of rfl])
  | remw => exact absurd hm (by simp [none_of rfl])
  | remuw => exact absurd hm (by simp [none_of rfl])
  | lrW => exact absurd hm (by simp [none_of rfl])
  | scW => exact absurd hm (by simp [none_of rfl])
  | amoswapW => exact absurd hm (by simp [none_of rfl])
  | amoaddW => exact absurd hm (by simp [none_of rfl])
  | amoxorW => exact absurd hm (by simp [none_of rfl])
  | amoandW => exact absurd hm (by simp [none_of rfl])
  | amoorW => exact absurd hm (by simp [none_of rfl])
  | amominW => exact absurd hm (by simp [none_of rfl])
  | amomaxW => exact absurd hm (by simp [none_of rfl])
  | amominuW => exact absurd hm (by simp [none_of rfl])
  | amomaxuW => exact absurd hm (by simp [none_of rfl])
  | lrD => exact absurd hm (by simp [none_of rfl])
  | scD => exact absurd hm (by simp [none_of rfl])
  | amoswapD => exact absurd hm (by simp [none_of rfl])
  | amoaddD => exact absurd hm (by simp [none_of rfl])
  | amoxorD => exact absurd hm (by simp [none_of rfl])
  | amoandD => exact absurd hm (by simp [none_of rfl])
  | amoorD => exact absurd hm (by simp [none_of rfl])
  | amominD => exact absurd hm (by simp [none_of rfl])
  | amomaxD => exact absurd hm (by simp [none_of rfl])
  | amominuD => exact absurd hm (by simp [none_of rfl])
  | amomaxuD => exact absurd hm (by simp [none_of rfl])
  | flw => exact absurd hm (by simp [none_of rfl])
  | fsw => exact absurd hm (by simp [none_of rfl])
  | fmaddS => exact absurd hm (by simp [none_of rfl])
  | fmsubS => exact absurd hm (by simp [none_of rfl])
  | fnmsubS => exact absurd hm (by simp [none_of rfl])
  | fnmaddS => exact absurd hm (by simp [none_of rfl])
  | faddS => exact absurd hm (by simp [none_of rfl])
  | fsubS => exact absurd hm (by simp [none_of rfl])
  | fmulS => exact absurd hm (by simp [none_of rfl])
  | fdivS => exact absurd hm (by simp [none_of rfl])
  | fsqrtS => exact absurd hm (by simp [none_of rfl])
  | fsgnjS => exact absurd hm (by simp [none_of rfl])
  | fsgnjnS => exact absurd hm (by simp [none_of rfl])
  | fsgnjxS => exact absurd hm (by simp [none_of rfl])
  | fminS => exact absurd hm (by simp [none_of rfl])
  | fmaxS => exact absurd hm (by simp [none_of rfl])
  | feqS => exact absurd hm (by simp [none_of rfl])
  | fltS => exact absurd hm (by simp [none_of rfl])
  | fleS => exact absurd hm (by simp [none_of rfl])
  | fclassS => exact absurd hm (by simp [none_of rfl])
  | fcvtWS => exact absurd hm (by simp [none_of rfl])
  | fcvtWUS => exact absurd hm (by simp [none_of rfl])
  | fcvtSW => exact absurd hm (by simp [none_of rfl])
  | fcvtSWU => exact absurd hm (by simp [none_of rfl])
  | fmvXW => exact absurd hm (by simp [none_of rfl])
  | fmvWX => exact absurd hm (by simp [none_of rfl])
  | fcvtLS => exact absurd hm (by simp [none_of rfl])
  | fcvtLUS => exact absurd hm (by simp [none_of rfl])
  | fcvtSL => exact absurd hm (by simp [none_of rfl])
  | fcvtSLU => exact absurd hm (by simp [none_of rfl])
  | fld => exact absurd hm (by simp [none_of rfl])
  | fsd => exact absurd hm (by simp [none_of rfl])
  | fmaddD => exact absurd hm (by simp [none_of rfl])
  | fmsubD => exact absurd hm (by simp [none_of rfl])
  | fnmsubD => exact absurd hm (by simp [none_of rfl])
  | fnmaddD => exact absurd hm (by simp [none_of rfl])
  | faddD => exact absurd hm (by simp [none_of rfl])
  | fsubD => exact absurd hm (by simp [none_of rfl])
  | fmulD => exact absurd hm (by simp [none_of rfl])
  | fdivD => exact absurd hm (by simp [none_of rfl])
  | fsqrtD => exact absurd hm (by simp [none_of rfl])
  | fsgnjD => exact absurd hm (by simp [none_of rfl])
  | fsgnjnD => exact absurd hm (by simp [none_of rfl])
  | fsgnjxD => exact absurd hm (by simp [none_of rfl])
  | fminD => exact absurd hm (by simp [none_of rfl])
  | fmaxD => exact absurd hm (by simp [none_of rfl])
  | fcvtSD => exact absurd hm (by simp [none_of rfl])
  | fcvtDS => exact absurd hm (by simp [none_of rfl])
  | feqD => exact absurd hm (by simp [none_of rfl])
  | fltD => exact absurd hm (by simp [none_of rfl])
  | fleD => exact absurd hm (by simp [none_of rfl])
  | fclassD => exact absurd hm (by simp [none_of rfl])
  | fcvtWD => exact absurd hm (by simp [none_of rfl])
  | fcvtWUD => exact absurd hm (by simp [none_of rfl])
  | fcvtDW => exact absurd hm (by simp [none_of rfl])
  | fcvtDWU => exact absurd hm (by simp [none_of rfl])
  | fcvtLD => exact absurd hm (by simp [none_of rfl])
  | fcvtLUD => exact absurd hm (by simp [none_of rfl])
  | fmvXD => exact absurd hm (by simp [none_of rfl])
  | fcvtDL => exact absurd hm (by simp [none_of rfl])
  | fcvtDLU => exact absurd hm (by simp [none_of rfl])
  | fmvDX => exact absurd hm (by simp [none_of rfl])
  | sret => exact absurd hm (by simp [none_of rfl])
  | mret => exact absurd hm (by simp [none_of rfl])
  | wfi => exact absurd hm (by simp [none_of rfl])
  | sfenceVma => exact absurd hm (by simp [none_of rfl])
  | cAddi4spn => exact absurd hm (by simp [none_of rfl])
  | cFld => exact absurd hm (by simp [none_of rfl])
  | cLw => exact absurd hm (by simp [none_of rfl])
  | cFlw => exact absurd hm (by simp [none_of rfl])
  | cLd => exact absurd hm (by simp [none_of rfl])
  | cFsd => exact absurd hm (by simp [none_of rfl])
  | cSw => exact absurd hm (by simp [none_of rfl])
  | cFsw => exact absurd hm (by simp [none_of rfl])
  | cSd => exact absurd hm (by simp [none_of rfl])
  | cNop => exact absurd hm (by simp [none_of rfl])
  | cAddi rd imm => exact collider_cAddi h hr hc hj ha hl
  | cJal => exact absurd hm (by simp [none_of rfl])
  | cAddiw => exact absurd hm (by simp [none_of rfl])
  | cLi => exact absurd hm (by simp [none_of rfl])
  | cAddi16sp => exact absurd hm (by simp [none_of rfl])
  | cLui rd imm => exact collider_cLui h hr hc hj ha hl
  | cSrli32 => exact absurd hm (by simp [none_of rfl])
  | cSrli64 => exact absurd hm (by simp [none_of rfl])
  | cSrai32 => exact absurd hm (by simp [none_of rfl])
  | cSrai64 => exact absurd hm (by simp [none_of rfl])
  | cAndi => exact absurd hm (by simp [none_of rfl])
  | cSub => exact absurd hm (by simp [none_of rfl])
  | cXor => exact absurd hm (by simp [none_of rfl])
  | cOr => exact absurd hm (by simp [none_of rfl])
  | cAnd => exact absurd hm (by simp [none_of rfl])
  | cSubw => exact absurd hm (by simp [none_of rfl])
  | cAddw => exact absurd hm (by simp [none_of rfl])
  | cJ => exact absurd hm (by simp [none_of rfl])
  | cBeqz => exact absurd hm (by simp [none_of rfl])
  | cBnez => exact absurd hm (by simp [none_of rfl])
  | cSlli32 => exact absurd hm (by simp [none_of rfl])
  | cSlli64 => exact absurd hm (by simp [none_of rfl])
  | cFldsp => exact absurd hm (by simp [none_of rfl])
  | cLwsp => exact absurd hm (by simp [none_of rfl])
  | cFlwsp => exact absurd hm (by simp [none_of rfl])
  | cLdsp => exact absurd hm (by simp [none_of rfl])
  | cEbreak => exact absurd hm (by simp [none_of rfl])
  | cJr => exact absurd hm (by simp [none_of rfl])
  | cMv rd rs2 => exact collider_cMv h hr hc hj ha hl
  | cJalr rs1 => exact collider_cJalr h hr hc hj ha hl
  | cAdd rd rs2 => exact collider_cAdd h hr hc hj ha hl
  | cFsdsp => exact absurd hm (by simp [none_of rfl])
  | cSwsp => exact absurd hm (by simp [none_of rfl])
  | cFswsp => exact absurd hm (by simp [none_of rfl])
  | cSdsp => exact absurd hm (by simp [none_of rfl])

/-! ## The first match of an encoded instruction -/

/-- The place of table row `n` in the reference ROM of `x`. -/
def romIndex (x : XLen) (n : Nat) : Nat := (opcodeTable.take n).countP (·.admits x)

theorem table_split {n : Nat} {r : TableRow} (hr : opcodeTable[n]? = some r) :
    opcodeTable = opcodeTable.take n ++ r :: opcodeTable.drop (n + 1) := by
  obtain ⟨h, rfl⟩ := List.getElem?_eq_some_iff.mp hr
  rw [List.cons_getElem_drop_succ, List.take_append_drop]

theorem rows_split {x : XLen} {n : Nat} {r : TableRow} (hr : opcodeTable[n]? = some r) (hx : r.admits x = true) :
    referenceRows x = (opcodeTable.take n).filter (·.admits x) ++ r :: (opcodeTable.drop (n + 1)).filter (·.admits x) := by
  conv_lhs => rw [referenceRows, table_split hr]
  simp [hx]

theorem rom_row {x : XLen} {n : Nat} {r : TableRow} (hr : opcodeTable[n]? = some r) (hx : r.admits x = true) :
    (referenceRom x)[romIndex x n]? = some r.entry := by
  rw [referenceRom, rows_split hr hx, List.map_append, List.getElem?_append_right (by simp [romIndex, List.countP_eq_length_filter])]
  simp [romIndex, List.countP_eq_length_filter]

/-- A word that a row of the catalog matches and no earlier row of the catalog does is first matched by that row. -/
theorem firstMatch_row {x : XLen} {n : Nat} {r : TableRow} {w : Word} (hr : opcodeTable[n]? = some r) (hx : r.admits x = true)
    (hm : entryMatches r.entry w = true)
    (hn : ∀ j a, j < n → opcodeTable[j]? = some a → a.admits x = true → entryMatches a.entry w = false) :
    firstMatch (referenceRom x) w = some (romIndex x n) := by
  rw [firstMatch_eq_some_iff]
  refine ⟨r.entry, rom_row hr hx, hm, fun j hj e he => ?_⟩
  rw [referenceRom, rows_split hr hx, List.map_append,
    List.getElem?_append_left (by simpa [romIndex, List.countP_eq_length_filter] using hj)] at he
  have hmem := List.mem_of_getElem? he
  simp only [List.mem_map, List.mem_filter] at hmem
  obtain ⟨a, ⟨ha, hax⟩, rfl⟩ := hmem
  obtain ⟨m, hm', ha'⟩ := List.getElem_of_mem ha
  have hlt : m < n := by simp at hm'; omega
  exact hn m a hlt (by rw [← ha', List.getElem_take]; exact List.getElem?_eq_getElem _) hax

/-- The first match of an encoded instruction is its own row, in every reference catalog that holds it. -/
theorem firstMatch_encode {x : XLen} {i : Instr} (h : WellFormed i = true) (hx : i.presentIn x = true) :
    firstMatch (referenceRom x) (encode i) = some (romIndex x i.rowNumber) := by
  obtain ⟨r, hr, hc, _⟩ := row_of i h
  have hrx : r.admits x = true := by simpa [Instr.presentIn, hr] using hx
  refine firstMatch_row hr hrx hc.entryMatches fun j a hj ha hax => ?_
  refine Bool.eq_false_iff.mpr fun hm => ?_
  have hmem := match_mem ha hr hax hrx hj hm hc.entryMatches
  simp [no_collider h hmem ha] at hm

end Sys2Proof.Laws
end

