-- ==== Sys2Proof/Laws/Back.lean ====
section
/-! SUPPORT. From a word to an instruction: a word with a row's literals is the encoding of the instruction that the row makes of it,
which is well-formed unless an earlier row matches the word too. -/

namespace Sys2Proof.Laws

open Sys2Proof.Machine

/-- What row number `n` makes of any whole word that carries its literals. -/
def Back (n : Nat) (r : TableRow) : Prop :=
  ∀ w, isLen4 w = (!r.w16) → truncWord w = w → w &&& r.mask = r.value →
    encode (r.make (tagFields r.tag w)) = w ∧ (r.make (tagFields r.tag w)).rowNumber = n ∧
      (WellFormed (r.make (tagFields r.tag w)) = true ∨
        ∃ j a, j < n ∧ opcodeTable[j]? = some a ∧ a.on32 = true ∧ a.on64 = true ∧ entryMatches a.entry w = true)

/-- `Back` for the rows of a list, numbered from `n` on. -/
def AllBack : Nat → List TableRow → Prop
  | _, [] => True
  | n, r :: rs => Back n r ∧ AllBack (n + 1) rs

theorem AllBack.append {n k : Nat} : ∀ {l m : List TableRow}, AllBack n l → n + l.length = k → AllBack k m → AllBack n (l ++ m)
  | [], _, _, e, h => by simpa [← e] using h
  | _ :: _, _, h, e, h' => ⟨h.1, AllBack.append h.2 (by rw [List.length_cons] at e; omega) h'⟩

theorem AllBack.get {n k : Nat} {r : TableRow} : ∀ {l : List TableRow}, AllBack n l → l[k]? = some r → Back (n + k) r
  | [], _, h => by simp at h
  | a :: l, h, hk => by
    cases k with
    | zero => simp at hk; exact hk ▸ h.1
    | succ k =>
      rw [← Nat.add_assoc, Nat.add_right_comm]
      exact AllBack.get (l := l) h.2 (by simpa using hk)

/-- A row for a format of the 32-bit words. -/
theorem back32 {n : Nat} {value mask : Word} {t : Tag} {make : Fields → Instr} {a b : Bool}
    (h : ∀ w : Word, w &&& mask = value → encode (make (tagFields t w)) = w ∧ (make (tagFields t w)).rowNumber = n ∧
      WellFormed (make (tagFields t w)) = true) : Back n ⟨a, b, value, mask, false, t, make⟩ := by
  intro w _ _ hl
  obtain ⟨h1, h2, h3⟩ := h w hl
  exact ⟨h1, h2, .inl h3⟩

/-- A row for a format of the 16-bit words. -/
theorem back16 {n : Nat} {value mask : Word} {t : Tag} {make : Fields → Instr} {a b : Bool}
    (h : ∀ c : Half, isLen4 (compressed c) = false → compressed c &&& mask = value →
      encode (make (values16 c t)) = compressed c ∧ (make (values16 c t)).rowNumber = n ∧
        (WellFormed (make (values16 c t)) = true ∨
          ∃ j a, j < n ∧ opcodeTable[j]? = some a ∧ a.on32 = true ∧ a.on64 = true ∧ entryMatches a.entry (compressed c) = true))
    (ht : ∀ w, make (tagFields t w) = make (values16 (lowHalf w) t) := by intro w; rfl) :
    Back n ⟨a, b, value, mask, true, t, make⟩ := by
  intro w h4 hw hl
  have e : compressed (lowHalf w) = w := by rw [← truncWord_half (by simpa using h4), hw]
  simp only [ht]
  rw [← e] at h4 hl
  have := h (lowHalf w) (by simpa using h4) hl
  rwa [e] at this

theorem earlier {n j : Nat} {a : TableRow} {c : Half} (hj : j < n) (ha : opcodeTable[j]? = some a) (h32 : a.on32 = true)
    (h64 : a.on64 = true) (h4 : isLen4 (compressed c) = false) (hw : a.w16 = true) (hl : compressed c &&& a.mask = a.value) :
    ∃ j a, j < n ∧ opcodeTable[j]? = some a ∧ a.on32 = true ∧ a.on64 = true ∧ entryMatches a.entry (compressed c) = true := by
  refine ⟨j, a, hj, ha, h32, h64, (entryMatches_iff _ _).mpr ⟨by simp [TableRow.entry, hw, h4], ?_⟩⟩
  rw [truncWord_half h4, compressed_lowHalf]
  exact hl

theorem all_of_mask {w v : Word} (h : w &&& 0xFFFFFFFF#32 = v) : w = v := by
  rwa [show (0xFFFFFFFF#32) = BitVec.allOnes 32 by decide, BitVec.and_allOnes] at h


theorem and_intro {a b : Bool} (ha : a = true) (hb : b = true) : (a && b) = true := by simp [ha, hb]

theorem hw_literal {c : Half} {v : Word} (h4 : isLen4 (compressed c) = false) (hl : compressed c &&& 0x0000FFFF#32 = v) :
    compressed c = v :=
  whole_word (by simpa using h4) (by rw [truncWord_half h4, compressed_lowHalf]) hl

theorem shamtC_CISH5 {c : Half} {v : Word} (hl : compressed c &&& 0x0000F003#32 = v) (hv : v.getLsbD 12 = false := by decide) :
    fitsFive (shamtC c) = true := by
  have h : c.extractLsb 12 12 = 0#1 := by
    subst hl
    simp only [compressed, BitVec.getLsbD_and, BitVec.getLsbD_append] at hv
    apply BitVec.eq_of_getLsbD_eq; intro i hi
    interval_cases i
    simp only [BitVec.getLsbD_extractLsb]
    simpa using hv
  have h5 : ∀ x : BitVec 5, fitsFive ((0#1 ++ x : BitVec 6)) = true := by decide
  simp only [shamtC, h]
  exact h5 _

theorem shamtC_CBSH5 {c : Half} {v : Word} (hl : compressed c &&& 0x0000FC03#32 = v) (hv : v.getLsbD 12 = false := by decide) :
    fitsFive (shamtC c) = true := by
  have h : c.extractLsb 12 12 = 0#1 := by
    subst hl
    simp only [compressed, BitVec.getLsbD_and, BitVec.getLsbD_append] at hv
    apply BitVec.eq_of_getLsbD_eq; intro i hi
    interval_cases i
    simp only [BitVec.getLsbD_extractLsb]
    simpa using hv
  have h5 : ∀ x : BitVec 5, fitsFive ((0#1 ++ x : BitVec 6)) = true := by decide
  simp only [shamtC, h]
  exact h5 _

theorem back_tableRv32i : AllBack 0 tableRv32i := ⟨
  back32 (fun w hl => ⟨back_U w _ _ rfl hl, rfl, immU_low _⟩),
  back32 (fun w hl => ⟨back_U w _ _ rfl hl, rfl, immU_low _⟩),
  back32 (fun w hl => ⟨back_J w _ _ rfl hl, rfl, and_intro (immJ_fits _) (immJ_low _)⟩),
  back32 (fun w hl => ⟨back_I w _ _ _ rfl hl, rfl, immI_fits _⟩),
  back32 (fun w hl => ⟨back_B w _ _ _ rfl hl, rfl, and_intro (immB_fits _) (immB_low _)⟩),
  back32 (fun w hl => ⟨back_B w _ _ _ rfl hl, rfl, and_intro (immB_fits _) (immB_low _)⟩),
  back32 (fun w hl => ⟨back_B w _ _ _ rfl hl, rfl, and_intro (immB_fits _) (immB_low _)⟩),
  back32 (fun w hl => ⟨back_B w _ _ _ rfl hl, rfl, and_intro (immB_fits _) (immB_low _)⟩),
  back32 (fun w hl => ⟨back_B w _ _ _ rfl hl, rfl, and_intro (immB_fits _) (immB_low _)⟩),
  back32 (fun w hl => ⟨back_B w _ _ _ rfl hl, rfl, and_intro (immB_fits _) (immB_low _)⟩),
  back32 (fun w hl => ⟨back_I w _ _ _ rfl hl, rfl, immI_fits _⟩),
  back32 (fun w hl => ⟨back_I w _ _ _ rfl hl, rfl, immI_fits _⟩),
  back32 (fun w hl => ⟨back_I w _ _ _ rfl hl, rfl, immI_fits _⟩),
  back32 (fun w hl => ⟨back_I w _ _ _ rfl hl, rfl, immI_fits _⟩),
  back32 (fun w hl => ⟨back_I w _ _ _ rfl hl, rfl, immI_fits _⟩),
  back32 (fun w hl => ⟨back_S w _ _ _ rfl hl, rfl, immS_fits _⟩),
  back32 (fun w hl => ⟨back_S w _ _ _ rfl hl, rfl, immS_fits _⟩),
  back32 (fun w hl => ⟨back_S w _ _ _ rfl hl, rfl, immS_fits _⟩),
  back32 (fun w hl => ⟨back_I w _ _ _ rfl hl, rfl, immI_fits _⟩),
  back32 (fun w hl => ⟨back_I w _ _ _ rfl hl, rfl, immI_fits _⟩),
  back32 (fun w hl => ⟨back_I w _ _ _ rfl hl, rfl, immI_fits _⟩),
  back32 (fun w hl => ⟨back_I w _ _ _ rfl hl, rfl, immI_fits _⟩),
  back32 (fun w hl => ⟨back_I w _ _ _ rfl hl, rfl, immI_fits _⟩),
  back32 (fun w hl => ⟨back_I w _ _ _ rfl hl, rfl, immI_fits _⟩),
  back32 (fun w hl => ⟨back_ISH5 w _ _ _ _ rfl hl, rfl, shamt5_fits _⟩),
  back32 (fun w hl => ⟨back_ISH5 w _ _ _ _ rfl hl, rfl, shamt5_fits _⟩),
  back32 (fun w hl => ⟨back_ISH5 w _ _ _ _ rfl hl, rfl, shamt5_fits _⟩),
  back32 (fun w hl => ⟨back_R w _ _ _ _ rfl hl, rfl, rfl⟩),
  back32 (fun w hl => ⟨back_R w _ _ _ _ rfl hl, rfl, rfl⟩),
  back32 (fun w hl => ⟨back_R w _ _ _ _ rfl hl, rfl, rfl⟩),
  back32 (fun w hl => ⟨back_R w _ _ _ _ rfl hl, rfl, rfl⟩),
  back32 (fun w hl => ⟨back_R w _ _ _ _ rfl hl, rfl, rfl⟩),
  back32 (fun w hl => ⟨back_R w _ _ _ _ rfl hl, rfl, rfl⟩),
  back32 (fun w hl => ⟨back_R w _ _ _ _ rfl hl, rfl, rfl⟩),
  back32 (fun w hl => ⟨back_R w _ _ _ _ rfl hl, rfl, rfl⟩),
  back32 (fun w hl => ⟨back_R w _ _ _ _ rfl hl, rfl, rfl⟩),
  back32 (fun w hl => ⟨back_R w _ _ _ _ rfl hl, rfl, rfl⟩),
  back32 (fun w hl => ⟨back_I w _ _ _ rfl hl, rfl, immI_fits _⟩),
  back32 (fun _ hl => ⟨(all_of_mask hl).symm, rfl, rfl⟩),
  back32 (fun _ hl => ⟨(all_of_mask hl).symm, rfl, rfl⟩), trivial⟩

theorem back_tableRv64i : AllBack 40 tableRv64i := ⟨
  back32 (fun w hl => ⟨back_ISH6 w _ _ _ _ rfl hl, rfl, rfl⟩),
  back32 (fun w hl => ⟨back_ISH6 w _ _ _ _ rfl hl, rfl, rfl⟩),
  back32 (fun w hl => ⟨back_ISH6 w _ _ _ _ rfl hl, rfl, rfl⟩),
  back32 (fun w hl => ⟨back_I w _ _ _ rfl hl, rfl, immI_fits _⟩),
  back32 (fun w hl => ⟨back_I w _ _ _ rfl hl, rfl, immI_fits _⟩),
  back32 (fun w hl => ⟨back_S w _ _ _ rfl hl, rfl, immS_fits _⟩),
  back32 (fun w hl => ⟨back_I w _ _ _ rfl hl, rfl, immI_fits _⟩),
  back32 (fun w hl => ⟨back_ISH5 w _ _ _ _ rfl hl, rfl, shamt5_fits _⟩),
  back32 (fun w hl => ⟨back_ISH5 w _ _ _ _ rfl hl, rfl, shamt5_fits _⟩),
  back32 (fun w hl => ⟨back_ISH5 w _ _ _ _ rfl hl, rfl, shamt5_fits _⟩),
  back32 (fun w hl => ⟨back_R w _ _ _ _ rfl hl, rfl, rfl⟩),
  back32 (fun w hl => ⟨back_R w _ _ _ _ rfl hl, rfl, rfl⟩),
  back32 (fun w hl => ⟨back_R w _ _ _ _ rfl hl, rfl, rfl⟩),
  back32 (fun w hl => ⟨back_R w _ _ _ _ rfl hl, rfl, rfl⟩),
  back32 (fun w hl => ⟨back_R w _ _ _ _ rfl hl, rfl, rfl⟩), trivial⟩

theorem back_tableZifencei : AllBack 55 tableZifencei := ⟨
  back32 (fun _ hl => ⟨(all_of_mask hl).symm, rfl, rfl⟩), trivial⟩

theorem back_tableZicsr : AllBack 56 tableZicsr := ⟨
  back32 (fun w hl => ⟨back_ICSR w _ _ _ rfl hl, rfl, rfl⟩),
  back32 (fun w hl => ⟨back_ICSR w _ _ _ rfl hl, rfl, rfl⟩),
  back32 (fun w hl => ⟨back_ICSR w _ _ _ rfl hl, rfl, rfl⟩),
  back32 (fun w hl => ⟨back_ICSRI w _ _ _ rfl hl, rfl, immCsri_fits _⟩),
  back32 (fun w hl => ⟨back_ICSRI w _ _ _ rfl hl, rfl, immCsri_fits _⟩),
  back32 (fun w hl => ⟨back_ICSRI w _ _ _ rfl hl, rfl, immCsri_fits _⟩), trivial⟩

theorem back_tableRv32m : AllBack 62 tableRv32m := ⟨
  back32 (fun w hl => ⟨back_R w _ _ _ _ rfl hl, rfl, rfl⟩),
  back32 (fun w hl => ⟨back_R w _ _ _ _ rfl hl, rfl, rfl⟩),
  back32 (fun w hl => ⟨back_R w _ _ _ _ rfl hl, rfl, rfl⟩),
  back32 (fun w hl => ⟨back_R w _ _ _ _ rfl hl, rfl, rfl⟩),
  back32 (fun w hl => ⟨back_R w _ _ _ _ rfl hl, rfl, rfl⟩),
  back32 (fun w hl => ⟨back_R w _ _ _ _ rfl hl, rfl, rfl⟩),
  back32 (fun w hl => ⟨back_R w _ _ _ _ rfl hl, rfl, rfl⟩),
  back32 (fun w hl => ⟨back_R w _ _ _ _ rfl hl, rfl, rfl⟩), trivial⟩

theorem back_tableRv64m : AllBack 70 tableRv64m := ⟨
  back32 (fun w hl => ⟨back_R w _ _ _ _ rfl hl, rfl, rfl⟩),
  back32 (fun w hl => ⟨back_R w _ _ _ _ rfl hl, rfl, rfl⟩),
  back32 (fun w hl => ⟨back_R w _ _ _ _ rfl hl, rfl, rfl⟩),
  back32 (fun w hl => ⟨back_R w _ _ _ _ rfl hl, rfl, rfl⟩),
  back32 (fun w hl => ⟨back_R w _ _ _ _ rfl hl, rfl, rfl⟩), trivial⟩

theorem back_tableRv32a : AllBack 75 tableRv32a := ⟨
  back32 (fun w hl => ⟨back_RLR w _ _ _ _ _ rfl hl, rfl, rfl⟩),
  back32 (fun w hl => ⟨back_RAMO w _ _ _ _ rfl hl, rfl, rfl⟩),
  back32 (fun w hl => ⟨back_RAMO w _ _ _ _ rfl hl, rfl, rfl⟩),
  back32 (fun w hl => ⟨back_RAMO w _ _ _ _ rfl hl, rfl, rfl⟩),
  back32 (fun w hl => ⟨back_RAMO w _ _ _ _ rfl hl, rfl, rfl⟩),
  back32 (fun w hl => ⟨back_RAMO w _ _ _ _ rfl hl, rfl, rfl⟩),
  back32 (fun w hl => ⟨back_RAMO w _ _ _ _ rfl hl, rfl, rfl⟩),
  back32 (fun w hl => ⟨back_RAMO w _ _ _ _ rfl hl, rfl, rfl⟩),
  back32 (fun w hl => ⟨back_RAMO w _ _ _ _ rfl hl, rfl, rfl⟩),
  back32 (fun w hl => ⟨back_RAMO w _ _ _ _ rfl hl, rfl, rfl⟩),
  back32 (fun w hl => ⟨back_RAMO w _ _ _ _ rfl hl, rfl, rfl⟩), trivial⟩

theorem back_tableRv64a : AllBack 86 tableRv64a := ⟨
  back32 (fun w hl => ⟨back_RLR w _ _ _ _ _ rfl hl, rfl, rfl⟩),
  back32 (fun w hl => ⟨back_RAMO w _ _ _ _ rfl hl, rfl, rfl⟩),
  back32 (fun w hl => ⟨back_RAMO w _ _ _ _ rfl hl, rfl, rfl⟩),
  back32 (fun w hl => ⟨back_RAMO w _ _ _ _ rfl hl, rfl, rfl⟩),
  back32 (fun w hl => ⟨back_RAMO w _ _ _ _ rfl hl, rfl, rfl⟩),
  back32 (fun w hl => ⟨back_RAMO w _ _ _ _ rfl hl, rfl, rfl⟩),
  back32 (fun w hl => ⟨back_RAMO w _ _ _ _ rfl hl, rfl, rfl⟩),
  back32 (fun w hl => ⟨back_RAMO w _ _ _ _ rfl hl, rfl, rfl⟩),
  back32 (fun w hl => ⟨back_RAMO w _ _ _ _ rfl hl, rfl, rfl⟩),
  back32 (fun w hl => ⟨back_RAMO w _ _ _ _ rfl hl, rfl, rfl⟩),
  back32 (fun w hl => ⟨back_RAMO w _ _ _ _ rfl hl, rfl, rfl⟩), trivial⟩

theorem back_tableRv32f : AllBack 97 tableRv32f := ⟨
  back32 (fun w hl => ⟨back_I w _ _ _ rfl hl, rfl, immI_fits _⟩),
  back32 (fun w hl => ⟨back_S w _ _ _ rfl hl, rfl, immS_fits _⟩),
  back32 (fun w hl => ⟨back_R4RM w _ _ _ rfl hl, rfl, rfl⟩),
  back32 (fun w hl => ⟨back_R4RM w _ _ _ rfl hl, rfl, rfl⟩),
  back32 (fun w hl => ⟨back_R4RM w _ _ _ rfl hl, rfl, rfl⟩),
  back32 (fun w hl => ⟨back_R4RM w _ _ _ rfl hl, rfl, rfl⟩),
  back32 (fun w hl => ⟨back_RRM w _ _ _ rfl hl, rfl, rfl⟩),
  back32 (fun w hl => ⟨back_RRM w _ _ _ rfl hl, rfl, rfl⟩),
  back32 (fun w hl => ⟨back_RRM w _ _ _ rfl hl, rfl, rfl⟩),
  back32 (fun w hl => ⟨back_RRM w _ _ _ rfl hl, rfl, rfl⟩),
  back32 (fun w hl => ⟨back_R2RM w _ _ _ _ rfl hl, rfl, rfl⟩),
  back32 (fun w hl => ⟨back_R w _ _ _ _ rfl hl, rfl, rfl⟩),
  back32 (fun w hl => ⟨back_R w _ _ _ _ rfl hl, rfl, rfl⟩),
  back32 (fun w hl => ⟨back_R w _ _ _ _ rfl hl, rfl, rfl⟩),
  back32 (fun w hl => ⟨back_R w _ _ _ _ rfl hl, rfl, rfl⟩),
  back32 (fun w hl => ⟨back_R w _ _ _ _ rfl hl, rfl, rfl⟩),
  back32 (fun w hl => ⟨back_R w _ _ _ _ rfl hl, rfl, rfl⟩),
  back32 (fun w hl => ⟨back_R w _ _ _ _ rfl hl, rfl, rfl⟩),
  back32 (fun w hl => ⟨back_R w _ _ _ _ rfl hl, rfl, rfl⟩),
  back32 (fun w hl => ⟨back_R2 w _ _ _ _ _ rfl hl, rfl, rfl⟩),
  back32 (fun w hl => ⟨back_R2RM w _ _ _ _ rfl hl, rfl, rfl⟩),
  back32 (fun w hl => ⟨back_R2RM w _ _ _ _ rfl hl, rfl, rfl⟩),
  back32 (fun w hl => ⟨back_R2RM w _ _ _ _ rfl hl, rfl, rfl⟩),
  back32 (fun w hl => ⟨back_R2RM w _ _ _ _ rfl hl, rfl, rfl⟩),
  back32 (fun w hl => ⟨back_R2 w _ _ _ _ _ rfl hl, rfl, rfl⟩),
  back32 (fun w hl => ⟨back_R2 w _ _ _ _ _ rfl hl, rfl, rfl⟩), trivial⟩

theorem back_tableRv64f : AllBack 123 tableRv64f := ⟨
  back32 (fun w hl => ⟨back_R2RM w _ _ _ _ rfl hl, rfl, rfl⟩),
  back32 (fun w hl => ⟨back_R2RM w _ _ _ _ rfl hl, rfl, rfl⟩),
  back32 (fun w hl => ⟨back_R2RM w _ _ _ _ rfl hl, rfl, rfl⟩),
  back32 (fun w hl => ⟨back_R2RM w _ _ _ _ rfl hl, rfl, rfl⟩), trivial⟩

theorem back_tableRv32d : AllBack 127 tableRv32d := ⟨
  back32 (fun w hl => ⟨back_I w _ _ _ rfl hl, rfl, immI_fits _⟩),
  back32 (fun w hl => ⟨back_S w _ _ _ rfl hl, rfl, immS_fits _⟩),
  back32 (fun w hl => ⟨back_R4RM w _ _ _ rfl hl, rfl, rfl⟩),
  back32 (fun w hl => ⟨back_R4RM w _ _ _ rfl hl, rfl, rfl⟩),
  back32 (fun w hl => ⟨back_R4RM w _ _ _ rfl hl, rfl, rfl⟩),
  back32 (fun w hl => ⟨back_R4RM w _ _ _ rfl hl, rfl, rfl⟩),
  back32 (fun w hl => ⟨back_RRM w _ _ _ rfl hl, rfl, rfl⟩),
  back32 (fun w hl => ⟨back_RRM w _ _ _ rfl hl, rfl, rfl⟩),
  back32 (fun w hl => ⟨back_RRM w _ _ _ rfl hl, rfl, rfl⟩),
  back32 (fun w hl => ⟨back_RRM w _ _ _ rfl hl, rfl, rfl⟩),
  back32 (fun w hl => ⟨back_R2RM w _ _ _ _ rfl hl, rfl, rfl⟩),
  back32 (fun w hl => ⟨back_R w _ _ _ _ rfl hl, rfl, rfl⟩),
  back32 (fun w hl => ⟨back_R w _ _ _ _ rfl hl, rfl, rfl⟩),
  back32 (fun w hl => ⟨back_R w _ _ _ _ rfl hl, rfl, rfl⟩),
  back32 (fun w hl => ⟨back_R w _ _ _ _ rfl hl, rfl, rfl⟩),
  back32 (fun w hl => ⟨back_R w _ _ _ _ rfl hl, rfl, rfl⟩),
  back32 (fun w hl => ⟨back_R2RM w _ _ _ _ rfl hl, rfl, rfl⟩),
  back32 (fun w hl => ⟨back_R2RM w _ _ _ _ rfl hl, rfl, rfl⟩),
  back32 (fun w hl => ⟨back_R w _ _ _ _ rfl hl, rfl, rfl⟩),
  back32 (fun w hl => ⟨back_R w _ _ _ _ rfl hl, rfl, rfl⟩),
  back32 (fun w hl => ⟨back_R w _ _ _ _ rfl hl, rfl, rfl⟩),
  back32 (fun w hl => ⟨back_R2 w _ _ _ _ _ rfl hl, rfl, rfl⟩),
  back32 (fun w hl => ⟨back_R2RM w _ _ _ _ rfl hl, rfl, rfl⟩),
  back32 (fun w hl => ⟨back_R2RM w _ _ _ _ rfl hl, rfl, rfl⟩),
  back32 (fun w hl => ⟨back_R2RM w _ _ _ _ rfl hl, rfl, rfl⟩),
  back32 (fun w hl => ⟨back_R2RM w _ _ _ _ rfl hl, rfl, rfl⟩), trivial⟩

theorem back_tableRv64d : AllBack 153 tableRv64d := ⟨
  back32 (fun w hl => ⟨back_R2RM w _ _ _ _ rfl hl, rfl, rfl⟩),
  back32 (fun w hl => ⟨back_R2RM w _ _ _ _ rfl hl, rfl, rfl⟩),
  back32 (fun w hl => ⟨back_R2 w _ _ _ _ _ rfl hl, rfl, rfl⟩),
  back32 (fun w hl => ⟨back_R2RM w _ _ _ _ rfl hl, rfl, rfl⟩),
  back32 (fun w hl => ⟨back_R2RM w _ _ _ _ rfl hl, rfl, rfl⟩),
  back32 (fun w hl => ⟨back_R2 w _ _ _ _ _ rfl hl, rfl, rfl⟩), trivial⟩

theorem back_tablePriv : AllBack 159 tablePriv := ⟨
  back32 (fun _ hl => ⟨(all_of_mask hl).symm, rfl, rfl⟩),
  back32 (fun _ hl => ⟨(all_of_mask hl).symm, rfl, rfl⟩),
  back32 (fun _ hl => ⟨(all_of_mask hl).symm, rfl, rfl⟩),
  back32 (fun w hl => ⟨back_RS w _ _ _ _ _ rfl hl, rfl, rfl⟩), trivial⟩

theorem back_tableRvc : AllBack 163 tableRvc := ⟨
  back16 (fun c h4 hl => ⟨back_CIW c _ _ _ rfl hl, rfl, .inl (and_intro (and_intro (isPrime_rp _) (immCIW_fits _)) (immCIW_low _))⟩),
  back16 (fun c h4 hl => ⟨back_CLD c _ _ _ rfl hl, rfl, .inl (and_intro (and_intro (and_intro (isPrime_rp _) (isPrime_rp _)) (immCD_fits _)) (immCD_low _))⟩),
  back16 (fun c h4 hl => ⟨back_CLW c _ _ _ rfl hl, rfl, .inl (and_intro (and_intro (and_intro (isPrime_rp _) (isPrime_rp _)) (immCW_fits _)) (immCW_low _))⟩),
  back16 (fun c h4 hl => ⟨back_CLW c _ _ _ rfl hl, rfl, .inl (and_intro (and_intro (and_intro (isPrime_rp _) (isPrime_rp _)) (immCW_fits _)) (immCW_low _))⟩),
  back16 (fun c h4 hl => ⟨back_CLD c _ _ _ rfl hl, rfl, .inl (and_intro (and_intro (and_intro (isPrime_rp _) (isPrime_rp _)) (immCD_fits _)) (immCD_low _))⟩),
  back16 (fun c h4 hl => ⟨back_CSD c _ _ _ rfl hl, rfl, .inl (and_intro (and_intro (and_intro (isPrime_rp _) (isPrime_rp _)) (immCD_fits _)) (immCD_low _))⟩),
  back16 (fun c h4 hl => ⟨back_CSW c _ _ _ rfl hl, rfl, .inl (and_intro (and_intro (and_intro (isPrime_rp _) (isPrime_rp _)) (immCW_fits _)) (immCW_low _))⟩),
  back16 (fun c h4 hl => ⟨back_CSW c _ _ _ rfl hl, rfl, .inl (and_intro (and_intro (and_intro (isPrime_rp _) (isPrime_rp _)) (immCW_fits _)) (immCW_low _))⟩),
  back16 (fun c h4 hl => ⟨back_CSD c _ _ _ rfl hl, rfl, .inl (and_intro (and_intro (and_intro (isPrime_rp _) (isPrime_rp _)) (immCD_fits _)) (immCD_low _))⟩),
  back16 (fun c h4 hl => ⟨(hw_literal h4 hl).symm, rfl, .inl rfl⟩),
  back16 (fun c h4 hl => ⟨back_CI c _ _ _ rfl hl, rfl, by
    by_cases h : fieldCRd c = 0#5 ∧ immCI c = 0#32
    · refine .inr (earlier (j := 172) (by decide) rfl rfl rfl h4 rfl ?_)
      have e : encode (.cAddi (fieldCRd c) (immCI c)) = compressed c := back_CI c _ _ _ rfl hl
      rw [h.1, h.2] at e
      rw [← e]; decide
    · refine .inl ?_
      simp only [values16, WellFormed, immCI_fits, Bool.true_and, Bool.not_eq_true', Bool.and_eq_false_iff, beq_eq_false_iff_ne]
      exact not_and_or.mp h⟩),
  back16 (fun c h4 hl => ⟨back_CJ c _ _ _ rfl hl, rfl, .inl (and_intro (immCJ_fits _) (immCJ_low _))⟩),
  back16 (fun c h4 hl => ⟨back_CI c _ _ _ rfl hl, rfl, .inl (immCI_fits _)⟩),
  back16 (fun c h4 hl => ⟨back_CI c _ _ _ rfl hl, rfl, .inl (immCI_fits _)⟩),
  back16 (fun c h4 hl => ⟨back_CIADDI16SP c _ _ _ _ rfl hl, rfl, .inl (and_intro (immCAddi16sp_fits _) (immCAddi16sp_low _))⟩),
  back16 (fun c h4 hl => ⟨back_CILUI c _ _ _ rfl hl, rfl, by
    by_cases h : fieldCRd c = 2#5
    · refine .inr (earlier (j := 177) (by decide) rfl rfl rfl h4 rfl ?_)
      have e : encode (.cLui (fieldCRd c) (immCLui c)) = compressed c := back_CILUI c _ _ _ rfl hl
      rw [← e, h]
      exact literal_CIAddi16sp ..
    · refine .inl ?_
      simp [values16, WellFormed, immCLui_fits, immCLui_low, h]⟩),
  back16 (fun c h4 hl => ⟨back_CBSH5 c _ _ _ _ rfl hl, rfl, .inl (and_intro (isPrime_rp _) (shamtC_CBSH5 hl))⟩),
  back16 (fun c h4 hl => ⟨back_CBSH c _ _ _ _ rfl hl, rfl, .inl (isPrime_rp _)⟩),
  back16 (fun c h4 hl => ⟨back_CBSH5 c _ _ _ _ rfl hl, rfl, .inl (and_intro (isPrime_rp _) (shamtC_CBSH5 hl))⟩),
  back16 (fun c h4 hl => ⟨back_CBSH c _ _ _ _ rfl hl, rfl, .inl (isPrime_rp _)⟩),
  back16 (fun c h4 hl => ⟨back_CBANDI c _ _ _ _ rfl hl, rfl, .inl (and_intro (isPrime_rp _) (immCI_fits _))⟩),
  back16 (fun c h4 hl => ⟨back_CA c _ _ _ _ _ _ rfl hl, rfl, .inl (and_intro (isPrime_rp _) (isPrime_rp _))⟩),
  back16 (fun c h4 hl => ⟨back_CA c _ _ _ _ _ _ rfl hl, rfl, .inl (and_intro (isPrime_rp _) (isPrime_rp _))⟩),
  back16 (fun c h4 hl => ⟨back_CA c _ _ _ _ _ _ rfl hl, rfl, .inl (and_intro (isPrime_rp _) (isPrime_rp _))⟩),
  back16 (fun c h4 hl => ⟨back_CA c _ _ _ _ _ _ rfl hl, rfl, .inl (and_intro (isPrime_rp _) (isPrime_rp _))⟩),
  back16 (fun c h4 hl => ⟨back_CA c _ _ _ _ _ _ rfl hl, rfl, .inl (and_intro (isPrime_rp _) (isPrime_rp _))⟩),
  back16 (fun c h4 hl => ⟨back_CA c _ _ _ _ _ _ rfl hl, rfl, .inl (and_intro (isPrime_rp _) (isPrime_rp _))⟩),
  back16 (fun c h4 hl => ⟨back_CJ c _ _ _ rfl hl, rfl, .inl (and_intro (immCJ_fits _) (immCJ_low _))⟩),
  back16 (fun c h4 hl => ⟨back_CBBR c _ _ _ rfl hl, rfl, .inl (and_intro (and_intro (isPrime_rp _) (immCB_fits _)) (immCB_low _))⟩),
  back16 (fun c h4 hl => ⟨back_CBBR c _ _ _ rfl hl, rfl, .inl (and_intro (and_intro (isPrime_rp _) (immCB_fits _)) (immCB_low _))⟩),
  back16 (fun c h4 hl => ⟨back_CISH5 c _ _ _ rfl hl, rfl, .inl (shamtC_CISH5 hl)⟩),
  back16 (fun c h4 hl => ⟨back_CISH c _ _ _ rfl hl, rfl, .inl rfl⟩),
  back16 (fun c h4 hl => ⟨back_CILDSP c _ _ _ rfl hl, rfl, .inl (and_intro (immCLdsp_fits _) (immCLdsp_low _))⟩),
  back16 (fun c h4 hl => ⟨back_CILWSP c _ _ _ rfl hl, rfl, .inl (and_intro (immCLwsp_fits _) (immCLwsp_low _))⟩),
  back16 (fun c h4 hl => ⟨back_CILWSP c _ _ _ rfl hl, rfl, .inl (and_intro (immCLwsp_fits _) (immCLwsp_low _))⟩),
  back16 (fun c h4 hl => ⟨back_CILDSP c _ _ _ rfl hl, rfl, .inl (and_intro (immCLdsp_fits _) (immCLdsp_low _))⟩),
  back16 (fun c h4 hl => ⟨(hw_literal h4 hl).symm, rfl, .inl rfl⟩),
  back16 (fun c h4 hl => ⟨back_CRJR c _ _ _ _ _ rfl hl, rfl, .inl rfl⟩),
  back16 (fun c h4 hl => ⟨back_CR c _ _ _ _ rfl hl, rfl, by
    by_cases h : fieldCRs2 c = 0#5
    · refine .inr (earlier (j := 200) (by decide) rfl rfl rfl h4 rfl ?_)
      have e : encode (.cMv (fieldCRd c) (fieldCRs2 c)) = compressed c := back_CR c _ _ _ _ rfl hl
      rw [← e, h]
      exact literal_CRJr ..
    · refine .inl ?_
      simp [values16, WellFormed, h]⟩),
  back16 (fun c h4 hl => ⟨back_CRJR c _ _ _ _ _ rfl hl, rfl, by
    by_cases h : fieldCRd c = 0#5
    · refine .inr (earlier (j := 199) (by decide) rfl rfl rfl h4 rfl ?_)
      have e : encode (.cJalr (fieldCRd c)) = compressed c := back_CRJR c _ _ _ _ _ rfl hl
      rw [← e, h]
      decide
    · refine .inl ?_
      simp [values16, WellFormed, h]⟩),
  back16 (fun c h4 hl => ⟨back_CR c _ _ _ _ rfl hl, rfl, by
    by_cases h : fieldCRs2 c = 0#5
    · refine .inr (earlier (j := 202) (by decide) rfl rfl rfl h4 rfl ?_)
      have e : encode (.cAdd (fieldCRd c) (fieldCRs2 c)) = compressed c := back_CR c _ _ _ _ rfl hl
      rw [← e, h]
      exact literal_CRJr ..
    · refine .inl ?_
      simp [values16, WellFormed, h]⟩),
  back16 (fun c h4 hl => ⟨back_CSSSDSP c _ _ _ rfl hl, rfl, .inl (and_intro (immCSdsp_fits _) (immCSdsp_low _))⟩),
  back16 (fun c h4 hl => ⟨back_CSSSWSP c _ _ _ rfl hl, rfl, .inl (and_intro (immCSwsp_fits _) (immCSwsp_low _))⟩),
  back16 (fun c h4 hl => ⟨back_CSSSWSP c _ _ _ rfl hl, rfl, .inl (and_intro (immCSwsp_fits _) (immCSwsp_low _))⟩),
  back16 (fun c h4 hl => ⟨back_CSSSDSP c _ _ _ rfl hl, rfl, .inl (and_intro (immCSdsp_fits _) (immCSdsp_low _))⟩), trivial⟩

theorem back_opcodeTable : AllBack 0 opcodeTable := by
  simp only [opcodeTable, List.append_assoc]
  exact back_tableRv32i.append (by decide) (back_tableRv64i.append (by decide) (back_tableZifencei.append (by decide) (back_tableZicsr.append (by decide) (back_tableRv32m.append (by decide) (back_tableRv64m.append (by decide) (back_tableRv32a.append (by decide) (back_tableRv64a.append (by decide) (back_tableRv32f.append (by decide) (back_tableRv64f.append (by decide) (back_tableRv32d.append (by decide) (back_tableRv64d.append (by decide) (back_tablePriv.append (by decide) (back_tableRvc)))))))))))))

/-- What a row of the table makes of a whole word that carries its literals. -/
theorem back_row {n : Nat} {r : TableRow} (h : opcodeTable[n]? = some r) : Back n r := by
  simpa using back_opcodeTable.get h

/-- A word that decodes to an instruction is the instruction's encoding, up to the bits R86 discards. -/
theorem encode_of_decode {x : XLen} {w : Word} {i : Instr} (h : decodeWord x w = .ok i) : encode i = truncWord w := by
  unfold decodeWord at h
  split at h
  case h_2 => cases h
  case h_1 r hr =>
    cases h
    have hm := (entryMatches_iff _ _).mp (List.find?_some (p := fun r : TableRow => entryMatches r.entry w) hr)
    obtain ⟨n, hn, hrn⟩ := List.getElem_of_mem (List.mem_of_mem_filter (List.mem_of_find?_eq_some hr))
    have hrow : opcodeTable[n]? = some r := by rw [← hrn]; exact List.getElem?_eq_getElem _
    exact (back_row hrow (truncWord w) (by rw [isLen4_truncWord]; simpa [TableRow.entry] using congrArg (!·) hm.1.symm)
      (truncWord_truncWord w) hm.2).1

end Sys2Proof.Laws
end

