-- ==== Sys2Proof/Laws/Compiler.lean ====
section
/-! SUPPORT. What the catalog compiler does: the mask and value a layout string leaves, what a compiled entry satisfies, and when a
module, a list of modules and a build succeed or fail. -/

namespace Sys2Proof.Laws

open Sys2Proof.Machine

theorem getLsbD_of_eq {n : Nat} {a b : BitVec n} (h : a = b) (i : Nat) : a.getLsbD i = b.getLsbD i := by rw [h]

/-- Literal bits are written to the value only where they are written to the mask. -/
theorem placeLiteral_value_in_mask (bits : List Bool) : ∀ (c : Nat) (mv : Word × Word), mv.2 &&& ~~~mv.1 = 0 →
    (placeLiteral c bits mv).2 &&& ~~~(placeLiteral c bits mv).1 = 0 := by
  induction bits with
  | nil => intro c mv h; exact h
  | cons b bs ih =>
    rintro c ⟨m, v⟩ h
    apply ih
    apply BitVec.eq_of_getLsbD_eq; intro i hi
    have e := getLsbD_of_eq h i
    simp only [BitVec.getLsbD_and, BitVec.getLsbD_not, BitVec.getLsbD_or] at e ⊢
    cases b
    · simp only [Bool.false_eq_true, if_false]
      cases hm : m.getLsbD i <;> cases hv : v.getLsbD i <;> simp_all
    · simp only [if_true, BitVec.getLsbD_or]
      cases hm : m.getLsbD i <;> cases hv : v.getLsbD i <;> cases ho : (1#32 <<< (c - 1)).getLsbD i <;> simp_all

/-- The loop of R71 keeps every value bit inside the mask. -/
theorem placeTokens_value_in_mask (ts : List (Token × Nat)) : ∀ (c : Nat) (mv : Word × Word), mv.2 &&& ~~~mv.1 = 0 →
    (placeTokens c ts mv).2 &&& ~~~(placeTokens c ts mv).1 = 0 := by
  induction ts with
  | nil => intro c mv h; exact h
  | cons t ts ih =>
    intro c mv h
    obtain ⟨t, w⟩ := t
    cases t with
    | literal bits => exact ih _ _ (placeLiteral_value_in_mask bits c mv h)
    | field a b r => exact ih _ _ h

/-- Literal bits below position `n` leave the mask clear from `n` up. -/
theorem placeLiteral_below (n : Nat) (bits : List Bool) : ∀ (c : Nat) (mv : Word × Word), c ≤ n → 0 < n →
    (∀ i, n ≤ i → mv.1.getLsbD i = false) →
    (∀ i, n ≤ i → (placeLiteral c bits mv).1.getLsbD i = false) := by
  induction bits with
  | nil => intro c mv _ _ h; exact h
  | cons b bs ih =>
    rintro c ⟨m, v⟩ hc hn h
    apply ih
    · omega
    · exact hn
    · intro i hi
      have h1 := h i hi
      simp only at h1
      simp only [BitVec.getLsbD_or, h1, Bool.false_or, BitVec.getLsbD_shiftLeft]
      have : ¬ i < c - 1 := by omega
      have h2 : i - (c - 1) ≠ 0 := by omega
      simp [BitVec.getLsbD_one, h2]

/-- The loop of R71, started at a cursor up to `n`, leaves the mask clear from `n` up. -/
theorem placeTokens_below (n : Nat) (ts : List (Token × Nat)) : ∀ (c : Nat) (mv : Word × Word), c ≤ n → 0 < n →
    (∀ i, n ≤ i → mv.1.getLsbD i = false) →
    (∀ i, n ≤ i → (placeTokens c ts mv).1.getLsbD i = false) := by
  induction ts with
  | nil => intro c mv _ _ h; exact h
  | cons t ts ih =>
    intro c mv hc hn h
    obtain ⟨t, w⟩ := t
    cases t with
    | literal bits => exact ih _ _ (by omega) hn (placeLiteral_below n bits c mv hc hn h)
    | field a b r => exact ih _ _ (by omega) hn h

/-- What an entry that compiles satisfies. -/
theorem compile_entry {d : Definition} {e : Entry × String} (h : compile d = .ok e) :
    e.1.value &&& ~~~e.1.mask = 0 ∧ (e.1.w16 = true → e.1.mask.extractLsb 31 16 = 0) ∧ codeAllowed e.1.w16 e.1.fmt = true := by
  unfold compile at h
  split at h
  · cases h
  split at h
  · cases h
  rename_i hw hc
  simp only at h
  split at h
  · cases h
  split at h
  · cases h
  split at h
  · cases h
  split at h
  · cases h
  rename_i ts _ _
  split at h
  · cases h
  cases h
  refine ⟨?_, ?_, by simpa using hc⟩
  · exact placeTokens_value_in_mask ts _ _ (by decide)
  · intro h16
    have h16 : d.width = 16 := by simpa using h16
    have := placeTokens_below 16 ts d.width (0, 0) (by omega) (by decide) (by intro i _; simp)
    apply BitVec.eq_of_getLsbD_eq; intro i hi
    simp only [BitVec.getLsbD_extractLsb]
    have := this (16+i) (by omega)
    simp
    exact fun _ => this

/-- A module compiles exactly when each of its definitions does, to their entries in order. -/
theorem compileFrom_ok_iff (m : CatalogModule) (ds : List Definition) : ∀ k l, compileFrom m k ds = .ok l ↔ ds.map compile = l.map Except.ok := by
  induction ds with
  | nil => intro k l; simp [compileFrom]
  | cons d ds ih =>
    intro k l
    unfold compileFrom
    cases hd : compile d with
    | error r =>
      simp only [List.map_cons, hd]
      constructor
      · intro h; cases h
      · intro h; cases l <;> simp at h
    | ok e =>
      simp only [List.map_cons, hd]
      cases hf : compileFrom m (k + 1) ds with
      | error x =>
        constructor
        · intro h; cases h
        · intro h
          cases l with
          | nil => simp at h
          | cons a l =>
            simp at h
            have := (ih (k+1) l).mpr h.2
            rw [hf] at this; cases this
      | ok es =>
        have := (ih (k+1) es).mp hf
        rw [this]
        have inj : Function.Injective (Except.ok : Entry × String → Except Reason (Entry × String)) :=
    fun a b h => by injection h
        constructor
        · intro h; cases h; simp
        · intro h
          cases l with
          | nil => simp at h
          | cons a l =>
            simp only [List.map_cons, List.cons.injEq, Except.ok.injEq] at h
            have := List.map_injective_iff.mpr inj h.2
            rw [h.1, this]

/-- A list of modules compiles exactly when each definition does, to their entries in order. -/
theorem compileModules_ok_iff (ms : List CatalogModule) : ∀ l, compileModules ms = .ok l ↔
    (ms.flatMap CatalogModule.defs).map compile = l.map Except.ok := by
  have inj : Function.Injective (Except.ok : Entry × String → Except Reason (Entry × String)) :=
    fun a b h => by injection h
  induction ms with
  | nil => intro l; simp [compileModules]
  | cons m ms ih =>
    intro l
    unfold compileModules
    simp only [List.flatMap_cons, List.map_append]
    cases hf : compileFrom m 0 m.defs with
    | error x =>
      constructor
      · intro h; cases h
      · intro h
        obtain ⟨l1, l2, rfl, h1, h2⟩ := List.map_eq_append_iff.mp h.symm
        have := (compileFrom_ok_iff m m.defs 0 l1).mpr h1.symm
        rw [hf] at this; cases this
    | ok es =>
      have h1 := (compileFrom_ok_iff m m.defs 0 es).mp hf
      rw [h1]
      cases hm : compileModules ms with
      | error x =>
        constructor
        · intro h; cases h
        · intro h
          obtain ⟨l1, l2, rfl, h3, h2⟩ := List.map_eq_append_iff.mp h.symm
          have := (ih l2).mpr h2.symm
          rw [hm] at this; cases this
      | ok rest =>
        have h2 := (ih rest).mp hm
        rw [h2, ← List.map_append]
        constructor
        · intro h; cases h; rfl
        · intro h; exact congrArg Except.ok (List.map_injective_iff.mpr inj h)

/-- A build succeeds exactly when its modules compile, and then its catalog is their entries, the 32-bit ones first, with the
diagnostics of that ROM. -/
theorem build_ok_iff (ms : List CatalogModule) (c : Catalog) : build ms = .ok c ↔ ∃ l, compileModules ms = .ok l ∧
      c.entries = (l.filter (fun e => !e.1.w16) ++ l.filter (fun e => e.1.w16)).map Prod.fst ∧
      c.names = (l.filter (fun e => !e.1.w16) ++ l.filter (fun e => e.1.w16)).map Prod.snd ∧
      c.extSet = extensionSet ms ∧ c.diagnostics = diagnostics c.entries := by
  unfold build
  cases h : compileModules ms with
  | error x => simp
  | ok l =>
    obtain ⟨a, b, d, g⟩ := c
    simp only [Except.ok.injEq, Catalog.mk.injEq, exists_eq_left']
    constructor
    · rintro ⟨rfl, rfl, rfl, rfl⟩; exact ⟨rfl, rfl, rfl, rfl⟩
    · rintro ⟨rfl, rfl, rfl, rfl⟩; exact ⟨rfl, rfl, rfl, rfl⟩

/-- The first definition that fails is the one reported, with its position. -/
theorem compileFrom_error (m : CatalogModule) (a : List Definition) : ∀ (k : Nat) (d : Definition) (b : List Definition) (r : Reason),
    (∀ d' ∈ a, ∃ e, compile d' = .ok e) → compile d = .error r →
    compileFrom m k (a ++ d :: b) = .error ⟨m.name, k + a.length, d.layout, r⟩ := by
  induction a with
  | nil => intro k d b r _ h; simp [compileFrom, h]
  | cons x a ih =>
    intro k d b r ha h
    obtain ⟨e, he⟩ := ha x (by simp)
    have := ih (k+1) d b r (fun d' h => ha d' (by simp [h])) h
    simp only [List.cons_append, compileFrom, he, this]
    simp; omega

/-- Definitions that all compile make a module that compiles. -/
theorem compileFrom_exists (m : CatalogModule) (a : List Definition) : ∀ (k : Nat), (∀ d' ∈ a, ∃ e, compile d' = .ok e) →
    ∃ l, compileFrom m k a = .ok l := by
  induction a with
  | nil => intro k _; exact ⟨_, rfl⟩
  | cons x a ih =>
    intro k ha
    obtain ⟨e, he⟩ := ha x (by simp)
    obtain ⟨l, hl⟩ := ih (k+1) (fun d' h => ha d' (by simp [h]))
    exact ⟨e :: l, by simp [compileFrom, he, hl]⟩

/-- The first module that fails is the one reported. -/
theorem compileModules_error (pre : List CatalogModule) : ∀ (m : CatalogModule) (post : List CatalogModule) (x : Malformed),
    (∀ m' ∈ pre, ∀ d' ∈ m'.defs, ∃ e, compile d' = .ok e) →
    compileFrom m 0 m.defs = .error x → compileModules (pre ++ m :: post) = .error x := by
  induction pre with
  | nil => intro m post x _ h; simp [compileModules, h]
  | cons a pre ih =>
    intro m post x hp h
    obtain ⟨l, hl⟩ := compileFrom_exists a a.defs 0 (hp a (by simp))
    simp [compileModules, hl, ih m post x (fun m' h => hp m' (by simp [h])) h]

/-! ## Diagnostics -/

/-- What is reported of an entry against the entries that follow it: one diagnostic for each of its class that it overlaps. -/
theorem mem_pairDiagnostics (a : Entry) (i : Nat) (d : Diagnostic) (bs : List Entry) : ∀ j, d ∈ pairDiagnostics a i j bs ↔
    ∃ k b, bs[k]? = some b ∧ a.w16 = b.w16 ∧ overlaps a b = true ∧
      d = if shadows a b then .fullshadow i (j + k) else .overlap i (j + k) := by
  induction bs with
  | nil => intro j; simp [pairDiagnostics]
  | cons b bs ih =>
    intro j
    simp only [pairDiagnostics, List.mem_append, ih]
    constructor
    · rintro (h | ⟨k, c, hc, h1, h2, h3⟩)
      · split at h
        · rename_i hb
          simp only [Bool.and_eq_true, beq_iff_eq] at hb
          exact ⟨0, b, rfl, hb.1, hb.2, by simpa using h⟩
        · cases h
      · exact ⟨k + 1, c, by simpa using hc, h1, h2, by rw [h3, show j + 1 + k = j + (k + 1) by omega]⟩
    · rintro ⟨k, c, hc, h1, h2, h3⟩
      cases k with
      | zero =>
        simp only [List.getElem?_cons_zero, Option.some.injEq] at hc
        subst hc
        exact .inl (by rw [if_pos (by simp [h1, h2])]; simpa using h3)
      | succ k => exact .inr ⟨k, c, by simpa using hc, h1, h2, by rw [h3, show j + 1 + k = j + (k + 1) by omega]⟩

/-- What is reported of pairs: one diagnostic for each pair of one class that overlaps, the earlier index first. -/
theorem mem_overlapDiagnostics (d : Diagnostic) (es : List Entry) : ∀ n, d ∈ overlapDiagnostics n es ↔
    ∃ i j a b, i < j ∧ es[i]? = some a ∧ es[j]? = some b ∧ a.w16 = b.w16 ∧ overlaps a b = true ∧
      d = if shadows a b then .fullshadow (n + i) (n + j) else .overlap (n + i) (n + j) := by
  induction es with
  | nil => intro n; simp [overlapDiagnostics]
  | cons e es ih =>
    intro n
    simp only [overlapDiagnostics, List.mem_append, ih, mem_pairDiagnostics]
    constructor
    · rintro (⟨k, b, hb, h1, h2, h3⟩ | ⟨i, j, a, b, hij, ha, hb, h1, h2, h3⟩)
      · exact ⟨0, k + 1, e, b, by omega, rfl, by simpa using hb, h1, h2, by rw [h3, show n + 1 + k = n + (k + 1) by omega]; rfl⟩
      · exact ⟨i + 1, j + 1, a, b, by omega, by simpa using ha, by simpa using hb, h1, h2,
          by rw [h3, show n + 1 + i = n + (i + 1) by omega, show n + 1 + j = n + (j + 1) by omega]⟩
    · rintro ⟨i, j, a, b, hij, ha, hb, h1, h2, h3⟩
      obtain ⟨j, rfl⟩ : ∃ k, j = k + 1 := ⟨j - 1, by omega⟩
      cases i with
      | zero =>
        simp only [List.getElem?_cons_zero, Option.some.injEq] at ha
        subst ha
        exact .inl ⟨j, b, by simpa using hb, h1, h2, by rw [h3, show n + 1 + j = n + (j + 1) by omega]; rfl⟩
      | succ i =>
        exact .inr ⟨i, j, a, b, by omega, by simpa using ha, by simpa using hb, h1, h2,
          by rw [h3, show n + 1 + i = n + (i + 1) by omega, show n + 1 + j = n + (j + 1) by omega]⟩

/-- What is reported of single entries: each dead one. -/
theorem mem_deadDiagnostics (d : Diagnostic) (es : List Entry) : ∀ n, d ∈ deadDiagnostics n es ↔
    ∃ i a, es[i]? = some a ∧ deadEntry a = true ∧ d = .dead (n + i) := by
  induction es with
  | nil => intro n; simp [deadDiagnostics]
  | cons e es ih =>
    intro n
    simp only [deadDiagnostics, List.mem_append, ih]
    constructor
    · rintro (h | ⟨i, a, ha, h1, h2⟩)
      · split at h
        · rename_i hd; exact ⟨0, e, rfl, hd, by simpa using h⟩
        · cases h
      · exact ⟨i + 1, a, by simpa using ha, h1, by rw [h2, show n + 1 + i = n + (i + 1) by omega]⟩
    · rintro ⟨i, a, ha, h1, h2⟩
      cases i with
      | zero =>
        simp only [List.getElem?_cons_zero, Option.some.injEq] at ha
        subst ha
        exact .inl (by rw [if_pos h1]; simpa using h2)
      | succ i => exact .inr ⟨i, a, by simpa using ha, h1, by rw [h2, show n + 1 + i = n + (i + 1) by omega]⟩

end Sys2Proof.Laws
end

