-- ==== Sys2Proof/Laws/Step.lean ====
section
/-! SUPPORT. What an instruction's meaning and a step do, each said once. -/

namespace Sys2Proof.Laws

open Sys2Proof.Machine

/-- Every meaning is the clock edge with the instruction's word on `in_word`. -/
theorem exec_eq (i : Instr) (s : State) : exec i s = .next (edgeWith (encode i) s) := by
  cases i <;> rfl

theorem enabledEdge_truncWord (w : Word) (s : State) : enabledEdge (truncWord w) s = enabledEdge w s := by
  simp only [enabledEdge, matchSlot_truncWord]

/-- The upper half of a 16-bit word is no part of an edge. -/
theorem edgeWith_truncWord (w : Word) (s : State) : edgeWith (truncWord w) s = edgeWith w s := by
  simp only [edgeWith, enabledEdge_truncWord]

/-- A step is the clock edge with the word on `in_word`, and then the outside world moves on. It always gives a next state. -/
theorem step_eq (s : State) : step s = .next (nextPorts (edgeWith s.ports.inWord s)) := by
  unfold step
  split
  case h_1 i h =>
    rw [exec_eq, encode_of_decode h, edgeWith_truncWord]
    rfl
  case h_2 => rfl

/-- At an enabled edge of a machine with the reference ROM, an encoded instruction is a hit at its own place. -/
theorem exec_reference {x : XLen} {i : Instr} {s : State} {r : TableRow} (h : WellFormed i = true) (hx : i.presentIn x = true)
    (hr : opcodeTable[i.rowNumber]? = some r) (hrom : s.rom = referenceRom x) (hrst : s.ports.rst = false)
    (hen : s.ports.en = true) :
    exec i s = .next { s with
      s1 := ⟨s.ports.inValid, !r.w16, encode i, true, romIndex x i.rowNumber, tagCode r.tag⟩
      out := extractSlot s.s1 } := by
  obtain ⟨r', hr', hc, _⟩ := row_of i h
  obtain rfl : r' = r := Option.some.inj (hr'.symm.trans hr)
  have hrx : r'.admits x = true := by simpa [Instr.presentIn, hr] using hx
  rw [exec_eq, edgeWith_enabled _ hrst hen, enabledEdge, hrom,
    matchSlot_hit_of _ (firstMatch_encode h hx) (rom_row hr hrx), hc.width, hc.whole]
  rfl

end Sys2Proof.Laws
end

