-- ==== Sys2Proof/Laws/Completes.lean ====
section
/-! SUPPORT. That a well-formed instruction completes as its own entry of the reference catalog, in the terms of `CompletesAs`. -/

namespace Sys2Proof.Laws

open Sys2Proof.Machine

theorem tagOfCode_tagCode (t : Tag) : tagOfCode (tagCode t) = some t := by cases t <;> rfl

@[simp] theorem fieldsOf_tagCode (t : Tag) (w : Word) : fieldsOf (tagCode t) w = tagFields t w := by
  simp [fieldsOf, tagOfCode_tagCode]

@[simp] theorem fvalidOf_tagCode (t : Tag) : fvalidOf (tagCode t) = tagFvalid t := by
  simp [fvalidOf, tagOfCode_tagCode]

/-- Every row of the opcode table carries a tag of its own width class (I3 of R20). -/
theorem opcodeTable_codes : ∀ r ∈ opcodeTable, codeAllowed r.w16 (tagCode r.tag) = true := by decide +kernel

/-- On a word of a row's width class the extractor works by the row's own tag. -/
theorem extractorCode_tagCode {r : TableRow} {w : Word} (hw : isLen4 w = !r.w16) (hr : r ∈ opcodeTable) :
    extractorCode (tagCode r.tag) w = tagCode r.tag :=
  extractorCode_of_allowed (by rw [hw, Bool.not_not]; exact opcodeTable_codes r hr)

/-- A well-formed instruction of the catalog completes as the entry of its row of the opcode table. -/
theorem completesAs {x : XLen} {i : Instr} {r : TableRow} (h : WellFormed i = true) (hx : i.presentIn x = true)
    (hr : opcodeTable[i.rowNumber]? = some r) :
    CompletesAs x i (romIndex x i.rowNumber) r.value r.mask (!r.w16) (tagCode r.tag) (fvalidOf (tagCode r.tag)) i.fields := by
  obtain ⟨r', hr', hc, _⟩ := row_of i h
  obtain rfl : r' = r := Option.some.inj (hr'.symm.trans hr)
  refine ⟨hc.literal, fun s hrom hrst hen => ⟨_, exec_reference h hx hr hrom hrst hen, rfl, fun p w hp he => ?_⟩⟩
  rw [edgeWith_enabled _ (by exact hp) (by exact he)]
  simp only [enabledEdge_out, extractSlot, extractorCode_tagCode hc.width (List.mem_of_getElem? hr'), fieldsOf_tagCode, hc.fields]

/-- The same, with what the entry and the ports show named. -/
theorem completesAs_of {x : XLen} (i : Instr) {r : TableRow} {ix : Nat} {value mask : Word} {len4 : Bool} {code : Code}
    {fv : BitVec 10} {f : Fields} (h : WellFormed i = true) (hr : opcodeTable[i.rowNumber]? = some r) (hx : r.admits x = true)
    (hi : romIndex x i.rowNumber = ix) (hv : r.value = value) (hm : r.mask = mask) (hl : (!r.w16) = len4)
    (hc : tagCode r.tag = code) (hfv : fvalidOf (tagCode r.tag) = fv) (hf : i.fields = f) :
    CompletesAs x i ix value mask len4 code fv f := by
  subst hi hv hm hl hc hfv hf
  exact completesAs h (by simpa [Instr.presentIn, hr] using hx) hr

/-! ## Edges and runs -/

theorem edgeWith_of_enabled {s : State} (w : Word) (h : s.ports.enabled = true) : edgeWith w s = enabledEdge w s := by
  simp only [Ports.enabled, Bool.and_eq_true, Bool.not_eq_true'] at h
  exact edgeWith_enabled _ h.1 h.2

theorem edgeWith_of_stalled {s : State} (w : Word) (h : s.ports.stalled = true) : edgeWith w s = s := by
  simp only [Ports.stalled, Bool.and_eq_true, Bool.not_eq_true'] at h
  exact edgeWith_stalled _ h.1 h.2

theorem stepWith_eq (p : Ports) (s : State) :
    stepWith p s = .next (edgeWith p.inWord { s with ports := p, stimulus := [] }) := by
  unfold stepWith
  rw [step_eq, nextPorts_nil (by simp)]

theorem run_of_step (m : Host.Core) (k : Nat) (s t : m.State) (h : m.step s = .next t) :
    Host.Core.run m (k + 1) s = Host.Core.run m k t := by
  rw [Host.Core.run, h]

/-- One step of a run, and the run goes on. -/
theorem run_succ (k : Nat) (s : State) :
    Host.Core.run Sys2Proof.core (k + 1) s = Host.Core.run Sys2Proof.core k (nextPorts (edgeWith s.ports.inWord s)) :=
  run_of_step Sys2Proof.core k s _ (step_eq s)

end Sys2Proof.Laws
end

