-- ==== Sys2Proof/Laws/Ranges.lean ====
section
/-! SUPPORT. The numbers the immediates stand for, and fields of the low half of a word. -/

namespace Sys2Proof.Laws

open Sys2Proof.Machine

/-- A sign-extended immediate has the value of its bits. -/
theorem toInt_sext {n : Nat} (v : BitVec n) (hn : n ≤ 32) : (sext n v).toInt = v.toInt := by
  unfold sext; exact BitVec.toInt_signExtend_of_le hn

/-- A zero-extended immediate has the value of its bits. -/
theorem toInt_zext {n : Nat} (v : BitVec n) (hn : n < 32) : (zext n v).toInt = v.toNat := by
  unfold zext
  have := v.isLt
  have h2 : 2^n ≤ 2^31 := Nat.pow_le_pow_right (by decide) (by omega)
  rw [BitVec.toInt_eq_toNat_of_lt]
  · simp; omega
  · simp; rw [Nat.mod_eq_of_lt (by omega)]; omega

/-- Literal zero bits below a field multiply its value. -/
theorem toNat_append_zeros {m k : Nat} (a : BitVec m) : (a ++ 0#k).toNat = a.toNat * 2^k := by
  rw [BitVec.toNat_append]; simp [Nat.shiftLeft_eq]

/-- Literal zero bits below a field multiply its signed value. -/
theorem toInt_append_zeros {m k : Nat} (a : BitVec m) : (a ++ 0#k).toInt = a.toInt * 2^k := by
  rw [BitVec.toInt_eq_toNat_cond, BitVec.toInt_eq_toNat_cond, toNat_append_zeros]
  have h : (2:Nat)^(m+k) = 2^m*2^k := by rw [pow_add]
  have hk : 0 < 2^k := Nat.pos_of_ne_zero (by simp)
  have : 2 * (a.toNat * 2^k) < 2^(m+k) ↔ 2 * a.toNat < 2^m := by
    rw [h, ← mul_assoc]; exact Nat.mul_lt_mul_right hk
  by_cases q : 2 * a.toNat < 2^m
  · simp [this, q]
  · rw [if_neg (by rw [this]; exact q), if_neg q, h]; push_cast; ring

/-- The range and the alignment of a signed immediate of `n` bits above `k` literal zeros. -/
theorem sext_range {n k m : Nat} {v : Word} (a : BitVec n) (hn : n + k ≤ 32) (hv : v = sext m ((a ++ 0#k).setWidth m)) (hm : m = n + k) (_hp : 0 < n):
   -(2^(n-1) * 2^k : Int) ≤ v.toInt ∧ v.toInt ≤ (2^(n-1) - 1) * 2^k ∧ v.toInt % (2^k : Nat) = 0 := by
  subst hm hv
  rw [toInt_sext _ hn]
  simp only [BitVec.setWidth_eq]
  rw [toInt_append_zeros]
  have h1 := BitVec.le_toInt a
  have h2 : a.toInt < 2^(n-1) := BitVec.toInt_lt
  have hk : (0:Int) ≤ 2^k := by positivity
  refine ⟨?_, ?_, ?_⟩
  · have := mul_le_mul_of_nonneg_right h1 hk; linarith
  · exact mul_le_mul_of_nonneg_right (by omega) hk
  · simp

/-- The range and the alignment of an unsigned immediate of `n` bits above `k` literal zeros. -/
theorem zext_range {n k m : Nat} {v : Word} (a : BitVec n) (hn : n + k < 32) (hv : v = zext m ((a ++ 0#k).setWidth m)) (hm : m = n + k) :
   0 ≤ v.toInt ∧ v.toInt ≤ (2^n - 1) * 2^k ∧ v.toInt % (2^k : Nat) = 0 := by
  subst hm hv
  rw [toInt_zext _ hn]
  simp only [BitVec.setWidth_eq]
  rw [toNat_append_zeros]
  have h1 := a.isLt
  refine ⟨by omega, ?_, ?_⟩
  · have : a.toNat * 2^k ≤ (2^n - 1) * 2^k := Nat.mul_le_mul_right _ (by omega)
    have h3 : ((2^n - 1 : Nat) : Int) = 2^n - 1 := by
      have : 1 ≤ 2^n := Nat.one_le_two_pow
      push_cast [Nat.cast_sub this]; rfl
    have := Int.ofNat_le.mpr this
    push_cast at this
    rw [h3] at this
    exact this
  · push_cast; simp

/-- A 3-bit register field names x8 to x15. -/
theorem rp_range (x : BitVec 3) : 8 ≤ (rp x).toNat ∧ (rp x).toNat ≤ 15 := by revert x; decide

/-- A field of the low half is the same field of the word. -/
theorem lowHalf_extractLsb (w : Word) (hi lo : Nat) (h : hi < 16) (hl : lo ≤ hi) : (lowHalf w).extractLsb hi lo = w.extractLsb hi lo := by
  apply BitVec.eq_of_getLsbD_eq; intro i hi'
  have h1 : lo + i < 16 := by omega
  simp only [lowHalf, BitVec.getLsbD_extractLsb]
  simp [h1]

end Sys2Proof.Laws
end

