-- ==== Sys2Proof/Tests/Slice0.lean ====
section
/-! SUPPORT. Tests of the model. Every expected value is from the spec: the layout strings of 44_reference_catalog.md, the worked
examples and tables of 95_test_vectors.md, or a number worked out by hand from a numbered rule. The witnesses at the end show, for each
statement with hypotheses, a state and operands that meet them. -/

set_option Elab.async false

namespace Sys2Proof.Tests

open Sys2Proof Sys2Proof.Machine

/-! ## Helpers -/

/-- The registers as a reset edge leaves them, for a ROM, and a word on `in_word` at an enabled edge. -/
def blockOf (x : XLen) (rom : List Entry) (w : Word) : State :=
  { State.reset with xlen := x, rom := rom, ports := ⟨false, true, true, w⟩ }

/-- A reference block with a word on `in_word` at an enabled edge. -/
def refBlock (x : XLen) (w : Word) : State := blockOf x (referenceRom x) w

/-- What stage 1 holds after a step. -/
def stage1After (s : State) : Option Stage1 :=
  match step s with
  | .next t => some t.s1
  | _ => none

/-- What the outputs show after a step. -/
def outAfter (s : State) : Option Stage2 :=
  match step s with
  | .next t => some t.out
  | _ => none

/-- Each word decodes to the instruction beside it, and the encoder lays that instruction out as the word. -/
def decodesAll (x : XLen) (l : List (Word × Instr)) : Bool :=
  l.all fun p => (decodeWord x p.1).toOption == some p.2 && encode p.2 == p.1

/-- No CSR names beyond R159's own, and every instruction formatted. -/
def noNames : Lookup := { csrNames := [], placeholder := "?", unformatted := [] }

/-- The assembly text of a word at an address under the reference catalog of `x`. -/
def textOf (x : XLen) (address : Nat) (w : Word) : String :=
  assemblyText noNames x (referenceNames x) address (decodeSlot (referenceRom x) true w)

/-! ## Ill-formed terms are refused: one for each check of `WellFormed` -/

theorem test_illformed_upper_low_bits : WellFormed (.lui 1 1) = false ∧ WellFormed (.lui 1 0x1000) = true := by decide
theorem test_illformed_jal_odd : WellFormed (.jal 1 1) = false ∧ WellFormed (.jal 1 2) = true := by decide
theorem test_illformed_jal_range : WellFormed (.jal 1 0x100000) = false ∧ WellFormed (.jal 1 0xFFF00000) = true := by decide
theorem test_illformed_i_range : WellFormed (.addi 1 2 0x800) = false ∧ WellFormed (.addi 1 2 0x7FF) = true := by decide
theorem test_illformed_b_odd : WellFormed (.beq 1 2 3) = false ∧ WellFormed (.beq 1 2 4) = true := by decide
theorem test_illformed_b_range : WellFormed (.beq 1 2 0x1000) = false ∧ WellFormed (.beq 1 2 0xFFFFF000) = true := by decide
theorem test_illformed_s_range : WellFormed (.sw 1 2 0xFFFFF7FF) = false ∧ WellFormed (.sw 1 2 0xFFFFF800) = true := by decide
theorem test_illformed_shamt_five : WellFormed (.slli32 1 2 32) = false ∧ WellFormed (.slli32 1 2 31) = true := by decide
theorem test_illformed_csri_range : WellFormed (.csrrwi 1 32 0) = false ∧ WellFormed (.csrrwi 1 31 0) = true := by decide
theorem test_illformed_ciw_register : WellFormed (.cAddi4spn 7 4) = false ∧ WellFormed (.cAddi4spn 8 4) = true := by decide
theorem test_illformed_ciw_range : WellFormed (.cAddi4spn 8 1024) = false ∧ WellFormed (.cAddi4spn 8 1020) = true := by decide
theorem test_illformed_ciw_alignment : WellFormed (.cAddi4spn 8 2) = false ∧ WellFormed (.cAddi4spn 15 4) = true := by decide
theorem test_illformed_cl_d_rd : WellFormed (.cFld 16 8 0) = false ∧ WellFormed (.cFld 15 8 0) = true := by decide
theorem test_illformed_cl_d_rs1 : WellFormed (.cFld 8 7 0) = false ∧ WellFormed (.cFld 8 15 0) = true := by decide
theorem test_illformed_cl_d_range : WellFormed (.cFld 8 8 256) = false ∧ WellFormed (.cFld 8 8 248) = true := by decide
theorem test_illformed_cl_d_alignment : WellFormed (.cFld 8 8 4) = false ∧ WellFormed (.cFld 8 8 8) = true := by decide
theorem test_illformed_cl_w_rd : WellFormed (.cLw 16 8 0) = false ∧ WellFormed (.cLw 15 8 0) = true := by decide
theorem test_illformed_cl_w_rs1 : WellFormed (.cLw 8 16 0) = false ∧ WellFormed (.cLw 8 15 0) = true := by decide
theorem test_illformed_cl_w_range : WellFormed (.cLw 8 8 128) = false ∧ WellFormed (.cLw 8 8 124) = true := by decide
theorem test_illformed_cl_w_alignment : WellFormed (.cLw 8 8 2) = false ∧ WellFormed (.cLw 8 8 4) = true := by decide
theorem test_illformed_cs_d_rs1 : WellFormed (.cFsd 7 8 0) = false ∧ WellFormed (.cFsd 8 8 0) = true := by decide
theorem test_illformed_cs_d_rs2 : WellFormed (.cFsd 8 16 0) = false ∧ WellFormed (.cFsd 8 15 0) = true := by decide
theorem test_illformed_cs_d_range : WellFormed (.cFsd 8 8 256) = false ∧ WellFormed (.cFsd 8 8 248) = true := by decide
theorem test_illformed_cs_d_alignment : WellFormed (.cFsd 8 8 4) = false ∧ WellFormed (.cFsd 8 8 8) = true := by decide
theorem test_illformed_cs_w_rs1 : WellFormed (.cSw 7 8 0) = false ∧ WellFormed (.cSw 8 8 0) = true := by decide
theorem test_illformed_cs_w_rs2 : WellFormed (.cSw 8 16 0) = false ∧ WellFormed (.cSw 8 15 0) = true := by decide
theorem test_illformed_cs_w_range : WellFormed (.cSw 8 8 128) = false ∧ WellFormed (.cSw 8 8 124) = true := by decide
theorem test_illformed_cs_w_alignment : WellFormed (.cSw 8 8 2) = false ∧ WellFormed (.cSw 8 8 4) = true := by decide
theorem test_illformed_caddi_range : WellFormed (.cAddi 1 32) = false ∧ WellFormed (.cAddi 1 31) = true := by decide
theorem test_illformed_caddi_nop : WellFormed (.cAddi 0 0) = false ∧ WellFormed (.cAddi 0 1) = true := by decide
theorem test_illformed_cj_range : WellFormed (.cJ 2048) = false ∧ WellFormed (.cJ 2046) = true := by decide
theorem test_illformed_cj_odd : WellFormed (.cJ 1) = false ∧ WellFormed (.cJ 2) = true := by decide
theorem test_illformed_cli_range : WellFormed (.cLi 1 0xFFFFFFDF) = false ∧ WellFormed (.cLi 1 0xFFFFFFE0) = true := by decide
theorem test_illformed_caddi16sp_range : WellFormed (.cAddi16sp 512) = false ∧ WellFormed (.cAddi16sp 496) = true := by decide
theorem test_illformed_caddi16sp_alignment : WellFormed (.cAddi16sp 8) = false ∧ WellFormed (.cAddi16sp 16) = true := by decide
theorem test_illformed_clui_range : WellFormed (.cLui 1 0x20000) = false ∧ WellFormed (.cLui 1 0x1F000) = true := by decide
theorem test_illformed_clui_alignment : WellFormed (.cLui 1 0x800) = false ∧ WellFormed (.cLui 1 0x1000) = true := by decide
theorem test_illformed_clui_sp : WellFormed (.cLui 2 0x1000) = false ∧ WellFormed (.cLui 3 0x1000) = true := by decide
theorem test_illformed_cb_sh_register : WellFormed (.cSrli32 7 1) = false ∧ WellFormed (.cSrli32 8 1) = true := by decide
theorem test_illformed_cb_sh_five : WellFormed (.cSrai32 8 32) = false ∧ WellFormed (.cSrai32 8 31) = true := by decide
theorem test_illformed_cb_sh64_register : WellFormed (.cSrli64 7 1) = false ∧ WellFormed (.cSrli64 8 63) = true := by decide
theorem test_illformed_candi_register : WellFormed (.cAndi 16 0) = false ∧ WellFormed (.cAndi 15 0) = true := by decide
theorem test_illformed_candi_range : WellFormed (.cAndi 8 32) = false ∧ WellFormed (.cAndi 8 31) = true := by decide
theorem test_illformed_ca_rd : WellFormed (.cSub 7 8) = false ∧ WellFormed (.cSub 8 8) = true := by decide
theorem test_illformed_ca_rs2 : WellFormed (.cSub 8 16) = false ∧ WellFormed (.cSub 8 15) = true := by decide
theorem test_illformed_cb_register : WellFormed (.cBeqz 7 0) = false ∧ WellFormed (.cBeqz 8 0) = true := by decide
theorem test_illformed_cb_range : WellFormed (.cBeqz 8 256) = false ∧ WellFormed (.cBeqz 8 254) = true := by decide
theorem test_illformed_cb_odd : WellFormed (.cBnez 8 1) = false ∧ WellFormed (.cBnez 8 2) = true := by decide
theorem test_illformed_cslli_five : WellFormed (.cSlli32 1 32) = false ∧ WellFormed (.cSlli32 1 31) = true := by decide
theorem test_illformed_ldsp_range : WellFormed (.cLdsp 1 512) = false ∧ WellFormed (.cLdsp 1 504) = true := by decide
theorem test_illformed_ldsp_alignment : WellFormed (.cLdsp 1 4) = false ∧ WellFormed (.cLdsp 1 8) = true := by decide
theorem test_illformed_lwsp_range : WellFormed (.cLwsp 1 256) = false ∧ WellFormed (.cLwsp 1 252) = true := by decide
theorem test_illformed_lwsp_alignment : WellFormed (.cLwsp 1 2) = false ∧ WellFormed (.cLwsp 1 4) = true := by decide
theorem test_illformed_cmv_rs2 : WellFormed (.cMv 1 0) = false ∧ WellFormed (.cMv 1 1) = true := by decide
theorem test_illformed_cadd_rs2 : WellFormed (.cAdd 1 0) = false ∧ WellFormed (.cAdd 1 1) = true := by decide
theorem test_illformed_cjalr_rs1 : WellFormed (.cJalr 0) = false ∧ WellFormed (.cJalr 1) = true := by decide
theorem test_illformed_sdsp_range : WellFormed (.cSdsp 1 512) = false ∧ WellFormed (.cSdsp 1 504) = true := by decide
theorem test_illformed_sdsp_alignment : WellFormed (.cSdsp 1 4) = false ∧ WellFormed (.cSdsp 1 8) = true := by decide
theorem test_illformed_swsp_range : WellFormed (.cSwsp 1 256) = false ∧ WellFormed (.cSwsp 1 252) = true := by decide
theorem test_illformed_swsp_alignment : WellFormed (.cSwsp 1 2) = false ∧ WellFormed (.cSwsp 1 4) = true := by decide

/-! ## Decoding: a word for every instruction, laid out from its layout string in 44_reference_catalog.md, with operands whose bits are
not symmetric -/

theorem test_decode_rv32i_32_part1 : decodesAll .rv32
   [(0xABCDE2B7, .lui 5 0xABCDE000), (0xABCDE297, .auipc 5 0xABCDE000), (0xA5DA52EF, .jal 5 0xFFFA5A5C),
    (0xABC302E7, .jalr 5 6 0xFFFFFABC), (0xA67306E3, .beq 6 7 0xFFFFFA6C), (0xA67316E3, .bne 6 7 0xFFFFFA6C),
    (0xA67346E3, .blt 6 7 0xFFFFFA6C), (0xA67356E3, .bge 6 7 0xFFFFFA6C), (0xA67366E3, .bltu 6 7 0xFFFFFA6C),
    (0xA67376E3, .bgeu 6 7 0xFFFFFA6C), (0xABC30283, .lb 5 6 0xFFFFFABC), (0xABC31283, .lh 5 6 0xFFFFFABC),
    (0xABC32283, .lw 5 6 0xFFFFFABC), (0xABC34283, .lbu 5 6 0xFFFFFABC), (0xABC35283, .lhu 5 6 0xFFFFFABC),
    (0xA4730E23, .sb 6 7 0xFFFFFA5C), (0xA4731E23, .sh 6 7 0xFFFFFA5C), (0xA4732E23, .sw 6 7 0xFFFFFA5C),
    (0xABC30293, .addi 5 6 0xFFFFFABC), (0xABC32293, .slti 5 6 0xFFFFFABC), (0xABC33293, .sltiu 5 6 0xFFFFFABC),
    (0xABC34293, .xori 5 6 0xFFFFFABC), (0xABC36293, .ori 5 6 0xFFFFFABC), (0xABC37293, .andi 5 6 0xFFFFFABC)] = true := by decide +kernel

theorem test_decode_rv32i_32_part2 : decodesAll .rv32
   [(0x01531293, .slli32 5 6 21), (0x01535293, .srli32 5 6 21), (0x41535293, .srai32 5 6 21), (0x007302B3, .add 5 6 7),
    (0x407302B3, .sub 5 6 7), (0x007312B3, .sll 5 6 7), (0x007322B3, .slt 5 6 7), (0x007332B3, .sltu 5 6 7),
    (0x007342B3, .xor 5 6 7), (0x007352B3, .srl 5 6 7), (0x407352B3, .sra 5 6 7), (0x007362B3, .or 5 6 7),
    (0x007372B3, .and 5 6 7), (0x8333028F, .fence 5 6 0xFFFFF833), (0x00000073, .ecall), (0x00100073, .ebreak)] = true := by decide +kernel

theorem test_decode_rv64i_64 : decodesAll .rv64
   [(0x02D31293, .slli64 5 6 45), (0x02D35293, .srli64 5 6 45), (0x42D35293, .srai64 5 6 45), (0xABC36283, .lwu 5 6 0xFFFFFABC),
    (0xABC33283, .ld 5 6 0xFFFFFABC), (0xA4733E23, .sd 6 7 0xFFFFFA5C), (0xABC3029B, .addiw 5 6 0xFFFFFABC),
    (0x0153129B, .slliw 5 6 21), (0x0153529B, .srliw 5 6 21), (0x4153529B, .sraiw 5 6 21), (0x007302BB, .addw 5 6 7),
    (0x407302BB, .subw 5 6 7), (0x007312BB, .sllw 5 6 7), (0x007352BB, .srlw 5 6 7), (0x407352BB, .sraw 5 6 7)] = true := by decide +kernel

theorem test_decode_zifenceiZicsr_32 : decodesAll .rv32
   [(0x0000100F, .fenceI), (0x305312F3, .csrrw 5 6 773), (0x305322F3, .csrrs 5 6 773), (0x305332F3, .csrrc 5 6 773),
    (0x305AD2F3, .csrrwi 5 0x15 773), (0x305AE2F3, .csrrsi 5 0x15 773), (0x305AF2F3, .csrrci 5 0x15 773)] = true := by decide +kernel

theorem test_decode_mulDiv_32 : decodesAll .rv32
   [(0x027302B3, .mul 5 6 7), (0x027312B3, .mulh 5 6 7), (0x027322B3, .mulhsu 5 6 7), (0x027332B3, .mulhu 5 6 7),
    (0x027342B3, .div 5 6 7), (0x027352B3, .divu 5 6 7), (0x027362B3, .rem 5 6 7), (0x027372B3, .remu 5 6 7)] = true := by decide +kernel

theorem test_decode_mulDiv_64 : decodesAll .rv64
   [(0x027302BB, .mulw 5 6 7), (0x027342BB, .divw 5 6 7), (0x027352BB, .divuw 5 6 7), (0x027362BB, .remw 5 6 7),
    (0x027372BB, .remuw 5 6 7)] = true := by decide +kernel

theorem test_decode_atomics_32 : decodesAll .rv32
   [(0x140322AF, .lrW 5 6 true false), (0x1C7322AF, .scW 5 6 7 true false), (0x0C7322AF, .amoswapW 5 6 7 true false),
    (0x047322AF, .amoaddW 5 6 7 true false), (0x247322AF, .amoxorW 5 6 7 true false), (0x647322AF, .amoandW 5 6 7 true false),
    (0x447322AF, .amoorW 5 6 7 true false), (0x847322AF, .amominW 5 6 7 true false), (0xA47322AF, .amomaxW 5 6 7 true false),
    (0xC47322AF, .amominuW 5 6 7 true false), (0xE47322AF, .amomaxuW 5 6 7 true false)] = true := by decide +kernel

theorem test_decode_atomics_64 : decodesAll .rv64
   [(0x140332AF, .lrD 5 6 true false), (0x1C7332AF, .scD 5 6 7 true false), (0x0C7332AF, .amoswapD 5 6 7 true false),
    (0x047332AF, .amoaddD 5 6 7 true false), (0x247332AF, .amoxorD 5 6 7 true false), (0x647332AF, .amoandD 5 6 7 true false),
    (0x447332AF, .amoorD 5 6 7 true false), (0x847332AF, .amominD 5 6 7 true false), (0xA47332AF, .amomaxD 5 6 7 true false),
    (0xC47332AF, .amominuD 5 6 7 true false), (0xE47332AF, .amomaxuD 5 6 7 true false)] = true := by decide +kernel

theorem test_decode_single_32_part1 : decodesAll .rv32
   [(0xABC32287, .flw 5 6 0xFFFFFABC), (0xA4732E27, .fsw 6 7 0xFFFFFA5C), (0xE07352C3, .fmaddS 5 6 7 28 5),
    (0xE07352C7, .fmsubS 5 6 7 28 5), (0xE07352CB, .fnmsubS 5 6 7 28 5), (0xE07352CF, .fnmaddS 5 6 7 28 5),
    (0x007352D3, .faddS 5 6 7 5), (0x087352D3, .fsubS 5 6 7 5), (0x107352D3, .fmulS 5 6 7 5), (0x187352D3, .fdivS 5 6 7 5),
    (0x580352D3, .fsqrtS 5 6 5), (0x207302D3, .fsgnjS 5 6 7), (0x207312D3, .fsgnjnS 5 6 7), (0x207322D3, .fsgnjxS 5 6 7),
    (0x287302D3, .fminS 5 6 7), (0x287312D3, .fmaxS 5 6 7), (0xA07322D3, .feqS 5 6 7), (0xA07312D3, .fltS 5 6 7),
    (0xA07302D3, .fleS 5 6 7), (0xE00312D3, .fclassS 5 6), (0xC00352D3, .fcvtWS 5 6 5), (0xC01352D3, .fcvtWUS 5 6 5),
    (0xD00352D3, .fcvtSW 5 6 5), (0xD01352D3, .fcvtSWU 5 6 5)] = true := by decide +kernel

theorem test_decode_single_32_part2 : decodesAll .rv32
   [(0xE00302D3, .fmvXW 5 6), (0xF00302D3, .fmvWX 5 6)] = true := by decide +kernel

theorem test_decode_single_64 : decodesAll .rv64
   [(0xC02352D3, .fcvtLS 5 6 5), (0xC03352D3, .fcvtLUS 5 6 5), (0xD02352D3, .fcvtSL 5 6 5), (0xD03352D3, .fcvtSLU 5 6 5)] = true := by decide +kernel

theorem test_decode_double_32_part1 : decodesAll .rv32
   [(0xABC33287, .fld 5 6 0xFFFFFABC), (0xA4733E27, .fsd 6 7 0xFFFFFA5C), (0xE27352C3, .fmaddD 5 6 7 28 5),
    (0xE27352C7, .fmsubD 5 6 7 28 5), (0xE27352CB, .fnmsubD 5 6 7 28 5), (0xE27352CF, .fnmaddD 5 6 7 28 5),
    (0x027352D3, .faddD 5 6 7 5), (0x0A7352D3, .fsubD 5 6 7 5), (0x127352D3, .fmulD 5 6 7 5), (0x1A7352D3, .fdivD 5 6 7 5),
    (0x5A0352D3, .fsqrtD 5 6 5), (0x227302D3, .fsgnjD 5 6 7), (0x227312D3, .fsgnjnD 5 6 7), (0x227322D3, .fsgnjxD 5 6 7),
    (0x2A7302D3, .fminD 5 6 7), (0x2A7312D3, .fmaxD 5 6 7), (0x401352D3, .fcvtSD 5 6 5), (0x420352D3, .fcvtDS 5 6 5),
    (0xA27322D3, .feqD 5 6 7), (0xA27312D3, .fltD 5 6 7), (0xA27302D3, .fleD 5 6 7), (0xE20312D3, .fclassD 5 6),
    (0xC20352D3, .fcvtWD 5 6 5), (0xC21352D3, .fcvtWUD 5 6 5)] = true := by decide +kernel

theorem test_decode_double_32_part2 : decodesAll .rv32
   [(0xD20352D3, .fcvtDW 5 6 5), (0xD21352D3, .fcvtDWU 5 6 5)] = true := by decide +kernel

theorem test_decode_double_64 : decodesAll .rv64
   [(0xC22352D3, .fcvtLD 5 6 5), (0xC23352D3, .fcvtLUD 5 6 5), (0xE20302D3, .fmvXD 5 6), (0xD22352D3, .fcvtDL 5 6 5),
    (0xD23352D3, .fcvtDLU 5 6 5), (0xF20302D3, .fmvDX 5 6)] = true := by decide +kernel

theorem test_decode_priv_32 : decodesAll .rv32
   [(0x10200073, .sret), (0x30200073, .mret), (0x10500073, .wfi), (0x12730073, .sfenceVma 6 7)] = true := by decide +kernel

theorem test_decode_rvc_32_part1 : decodesAll .rv32
   [(0x0DC4, .cAddi4spn 9 0x2D4), (0x3544, .cFld 9 10 0xA8), (0x4964, .cLw 9 10 0x54), (0x6964, .cFlw 9 10 0x54),
    (0xB554, .cFsd 10 13 0xA8), (0xC974, .cSw 10 13 0x54), (0xE974, .cFsw 10 13 0x54), (0x0001, .cNop),
    (0x12AD, .cAddi 5 0xFFFFFFEB), (0x3CB1, .cJal 0xFFFFFA5C), (0x52AD, .cLi 5 0xFFFFFFEB), (0x7169, .cAddi16sp 0xFFFFFED0),
    (0x72AD, .cLui 5 0xFFFEB000), (0x80D5, .cSrli32 9 21), (0x84D5, .cSrai32 9 21), (0x98AD, .cAndi 9 0xFFFFFFEB),
    (0x8C95, .cSub 9 13), (0x8CB5, .cXor 9 13), (0x8CD5, .cOr 9 13), (0x8CF5, .cAnd 9 13), (0xBCB1, .cJ 0xFFFFFA5C),
    (0xDD29, .cBeqz 10 0xFFFFFF5A), (0xFD29, .cBnez 10 0xFFFFFF5A), (0x02D6, .cSlli32 5 21)] = true := by decide +kernel

theorem test_decode_rvc_32_part2 : decodesAll .rv32
   [(0x32B6, .cFldsp 5 0x168), (0x52DA, .cLwsp 5 0xB4), (0x72DA, .cFlwsp 5 0xB4), (0x9002, .cEbreak), (0x8302, .cJr 6),
    (0x829E, .cMv 5 7), (0x9302, .cJalr 6), (0x929E, .cAdd 5 7), (0xB69E, .cFsdsp 7 0x168), (0xDB1E, .cSwsp 7 0xB4),
    (0xFB1E, .cFswsp 7 0xB4)] = true := by decide +kernel

theorem test_decode_rvc_64 : decodesAll .rv64
   [(0x7544, .cLd 9 10 0xA8), (0xF554, .cSd 10 13 0xA8), (0x32AD, .cAddiw 5 0xFFFFFFEB), (0x90B5, .cSrli64 9 45),
    (0x94B5, .cSrai64 9 45), (0x9C95, .cSubw 9 13), (0x9CB5, .cAddw 9 13), (0x12B6, .cSlli64 5 45), (0x72B6, .cLdsp 5 0x168),
    (0xF69E, .cSdsp 7 0x168)] = true := by decide +kernel

/-! ## The matcher: words that no entry takes, and words whose upper half is discarded (95_test_vectors.md L2.2) -/

theorem test_no_entry_xlen32 : ([0x0000108F, 0x02011093, 0x0C20F0D3, 0x0000703B, 0x00003003, 0x000FFFFF, 0x0000707F, 0x0000001F, 0x8000] :
    List Word).all (fun w => !matchHit (referenceRom .rv32) w) = true := by decide +kernel

theorem test_no_entry_xlen64 : ([0x0000703B, 0x0200101B, 0x0000201B] : List Word).all (fun w => !matchHit (referenceRom .rv64) w) = true := by
  decide +kernel

/-- The fields of L2.2's rows for 0x8330000F (FENCE) and, for XLEN=64, 0x02011093 (SLLI with a shift of 32). -/
theorem test_fields_of_corner_words :
    fieldsOf (matchFmt (referenceRom .rv32) 0x8330000F) 0x8330000F = { rd := 0, rs1 := 0, imm := 0xFFFFF833 } ∧
      fieldsOf (matchFmt (referenceRom .rv64) 0x02011093) 0x02011093 = { rd := 1, rs1 := 2, shamt := 32 } := by decide +kernel

/-- L2.4: only the sign bit of the immediate is set. -/
theorem test_sign_round_trip :
    ([(0x80000013, 0xFFFFF800), (0x80000023, 0xFFFFF800), (0x80000063, 0xFFFFF000), (0x80000037, 0x80000000),
      (0x8000006F, 0xFFF00000), (0x1001, 0xFFFFFFE0), (0x7001, 0xFFFE0000), (0x7101, 0xFFFFFE00), (0xD001, 0xFFFFFF00),
      (0xB001, 0xFFFFF800), (0x9801, 0xFFFFFFE0)] : List (Word × Word)).all
      (fun p => (fieldsOf (matchFmt (referenceRom .rv32) p.1) p.1).imm == p.2) = true := by decide +kernel

/-! ## The pipeline: one edge each -/

/-- P3, edge 1: the upper half of 0x05934515 is the next instruction and is discarded; stage 1 holds C.LI at index 132. -/
theorem test_step_loads_stage1 :
    stage1After (refBlock .rv32 0x05934515) = some ⟨true, false, 0x00004515, true, 132, 34⟩ := by decide +kernel

/-- P3, edge 2: C.LI with rd = 10 and imm = 5 is on the outputs while ADDI is in stage 1. -/
theorem test_step_loads_stage2 :
    outAfter { refBlock .rv32 0x00150593 with s1 := ⟨true, false, 0x00004515, true, 132, 34⟩ } =
      some ⟨true, false, 0x00004515, true, 132, 34, 0x011, { rd := 10, imm := 5 }⟩ := by decide +kernel

/-- P2, edges 3 and 4: a stall keeps both stages, whatever the other inputs are. -/
theorem test_step_stall : step { refBlock .rv32 0xFFFFFFFF with ports := ⟨false, false, true, 0xFFFFFFFF⟩, s1 := ⟨true, true, 0x406002B3, true, 28, 1⟩ } =
    .next { refBlock .rv32 0xFFFFFFFF with ports := ⟨false, false, true, 0xFFFFFFFF⟩, s1 := ⟨true, true, 0x406002B3, true, 28, 1⟩ } := by
  rw [Laws.step_eq]; rfl

/-- P4, edge 4: a reset edge dominates `en`, and the presented ADDI is not loaded. -/
theorem test_step_reset_dominates :
    stage1After { refBlock .rv32 0x00000013 with ports := ⟨true, true, true, 0x00000013⟩, s1 := ⟨true, true, 0x107F, false, 0, 0⟩ } =
      some Stage1.reset := by decide +kernel

/-- P4, edge 2: a NoMatch is on the outputs with `out_valid = 1`, and the step goes on. -/
theorem test_step_nomatch :
    outAfter { refBlock .rv32 0x8000 with s1 := ⟨true, true, 0xFFFFFFFF, false, 0, 0⟩ } =
      some ⟨true, true, 0xFFFFFFFF, false, 0, 0, 0, {}⟩ := by decide +kernel

/-- P6, edge 3: SLLI with a shift of 32 at XLEN=64. -/
theorem test_step_xlen64 :
    outAfter { refBlock .rv64 0x60A29D2D with s1 := ⟨true, true, 0x02051513, true, 37, 11⟩ } =
      some ⟨true, true, 0x02051513, true, 37, 11, 0x043, { rd := 10, rs1 := 10, shamt := 32 }⟩ := by decide +kernel

/-! ## The host's interface -/

theorem test_decode_table_word :
    decodeTableWord 32 0x00000033 = some (.add 0 0 0) ∧ decodeTableWord 32 0x0000003B = some (.addw 0 0 0) ∧
      decodeTableWord 16 0x9002 = some .cEbreak ∧ decodeTableWord 32 0xFFFFFFFF = none := by decide +kernel

theorem test_with_fetch_word :
    stage1After (State.reset.withFetchWord 32 0x00000033) = some ⟨true, true, 0x00000033, true, 27, 1⟩ ∧
      stage1After (State.reset.withFetchWord 32 0x0000003B) = some ⟨true, true, 0x0000003B, true, 47, 1⟩ := by decide +kernel

/-! ## The compiler (95_test_vectors.md L2.1) -/

theorem test_compile_reasons :
    ([("imm[12|10:5] rs2 rs1 000 imm[4:1|11] 110001 BEQ", 32, 15, .m1), ("imm[12|10:5] rs2 rs1 000 imm[4:1|11] 1100011", 32, 15, .m5),
      ("imm[12|10:5] rs2 rs1 000 imm[4:1|11] 1100011 BEQ", 16, 15, .m8), ("imm[12|10:5] rs2 rs1 000 imm[4:1|11] 1100011 BEQ", 32, 48, .m8),
      ("imm[12|10:5] rs2 rs1 000 imm[4:1|11] 1100011 beq", 32, 15, .m5), ("imm[12|10:5] rs2 rs1 000 imm[4:1|1x] 1100011 BEQ", 32, 15, .m2),
      ("imm[12|5:10] rs2 rs1 000 imm[4:1|11] 1100011 BEQ", 32, 15, .m4), ("imm rs2 rs1 000 imm[4:1|11] 1100011 BEQ", 32, 15, .m3),
      ("BEQ", 32, 15, .m5), ("BEQ", 48, 15, .m7)] : List (String × Nat × Code × Reason)).all
      (fun p => compile ⟨p.1, p.2.1, p.2.2.1, "M"⟩ == .error p.2.2.2) = true := by decide +kernel

theorem test_compile_entries :
    compile ⟨"0000000 rs2 rs1 000 rd 0110011 ADD", 32, 1, "M"⟩ = .ok (⟨0x00000033, 0xFE00707F, false, 1⟩, "ADD") ∧
      compile ⟨"000 nzuimm[5:4|9:6|2|3] rd' 00 C.ADDI4SPN", 16, 42, "M"⟩ = .ok (⟨0x0000, 0xE003, true, 42⟩, "C.ADDI4SPN") := by
  decide +kernel

/-- R79 and R80 on ROMs made for them: a later entry that an earlier one covers, and a 32-bit entry whose low bits are literal 00. -/
theorem test_diagnostics :
    diagnostics [⟨0x13, 0x7F, false, 9⟩, ⟨0x13, 0x707F, false, 9⟩] = [.fullshadow 0 1] ∧
      diagnostics [⟨0x10, 0x7F, false, 9⟩] = [.dead 0] := by decide +kernel

/-- R57: a ROM handed over directly whose 32-bit entry carries the code of CI is decoded as if the code were NONE. -/
theorem test_code_of_other_class :
    decodeSlot [⟨0x13, 0x7F, false, 34⟩] true 0xFFF00093 = ⟨true, true, 0xFFF00093, true, 0, 34, 0, {}⟩ ∧
      decodeSlot [⟨0x01, 0x03, true, 9⟩] true 0x4515 = ⟨true, false, 0x4515, true, 0, 9, 0, {}⟩ := by decide +kernel

/-! ## The consumer's text (95_test_vectors.md L2.5, P1, P3) -/

theorem test_text_canonical :
    textOf .rv32 0 0x00000013 = "nop" ∧ textOf .rv32 0 0x406002B3 = "neg t0,t1" ∧ textOf .rv32 0 0x00008067 = "ret" ∧
      textOf .rv32 0x100 0x00050463 = "beqz a0,108" ∧ textOf .rv32 0 0x00302573 = "frcsr a0" := by decide +kernel

/-- R159, last sentence: another CSR operation on 0x003 has the CSR's own name, whatever the table says; 0x300 has the table's. -/
theorem test_text_csr_names :
    csrName { noNames with csrNames := [(0x003, "other"), (0x300, "mstatus")] } 0x003 = "fcsr" ∧
      csrName { noNames with csrNames := [(0x003, "other"), (0x300, "mstatus")] } 0x300 = "mstatus" ∧
      textOf .rv32 0 0x0032A073 = "csrs fcsr,t0" := by decide +kernel

theorem test_text_plain :
    textOf .rv32 0 0x123312F3 = "csrrw t0,0x123,t1" ∧ textOf .rv32 0 0xC0050553 = "fcvt.w.s a0,fa0,rne" ∧
      textOf .rv32 0 0x0FF0000F = "fence iorw,iorw" ∧ textOf .rv32 0x100 0x4515 = "c.li a0,5" ∧
      textOf .rv32 0x106 0xFDED = "c.bnez a1,100" ∧ textOf .rv32 0 0xFFFFFFFF = "illegal" := by decide +kernel

/-- L2.5, target wrap: BEQ with -4096 at address 0. -/
theorem test_target_wraps :
    branchTarget .rv32 0 0xFFFFF000 = 0xFFFFF000 ∧ branchTarget .rv64 0 0xFFFFF000 = 0xFFFFFFFFFFFFF000 := by decide +kernel

/-- P3's stream: the records of its first two words. -/
theorem test_walk :
    walkStream noNames .rv32 (referenceNames .rv32) (referenceRom .rv32) 2 0x100
        [0x15, 0x45, 0x93, 0x05, 0x15, 0x00, 0xED, 0xFD, 0x82, 0x80] =
      [⟨0x100, 32, 0x00004515, 2, "c.li a0,5"⟩, ⟨0x102, 32, 0x00150593, 4, "addi a1,a0,1"⟩] := by decide +kernel

/-! ## Witnesses: for each statement with hypotheses, a state and operands that meet them -/

theorem witness_ResetEdgeGivesResetValues :
    ({ refBlock .rv32 0x13 with ports := ⟨true, true, true, 0x13⟩ } : State).ports.rst = true := rfl

theorem witness_MatcherSelectsFirstMatch :
    matchHit (referenceRom .rv32) 0x00008067 = true ∧ matchHit (referenceRom .rv32) 0x8000 = false := by decide +kernel

theorem witness_MatcherAgreesWithLinearScan :
    matchHit (referenceRom .rv64) 0x00003003 = true ∧ matchHit (referenceRom .rv32) 0x00003003 = false := by decide +kernel

/-- The first and the last entry of the XLEN=32 catalog, the second of them for a word that five earlier entries are near. -/
theorem witness_NoShadowing :
    (referenceRom .rv32)[0]? = some ⟨0x37, 0x7F, false, 16⟩ ∧ truncWord 0x37 &&& 0x7F = 0x37 ∧ false = !isLen4 0x37 ∧
      (referenceRom .rv32)[156]? = some ⟨0xE002, 0xE003, true, 40⟩ ∧ truncWord 0xFFFFFF86 &&& 0xE003 = 0xE002 ∧
      true = !isLen4 0xFFFFFF86 ∧
      (referenceRom .rv32).all (fun a => !a.w16 || a.value == 0xE002 || truncWord 0xFFFFFF86 &&& a.mask != a.value) = true ∧
      (0 ∉ [130, 134, 151, 152, 153] ∧ 156 ∉ [130, 134, 151, 152, 153]) := by decide +kernel

theorem witness_EveryEdgeAndInstructionHasANextState :
    (⟨true, false, false, 0⟩ : Ports).rst = true ∧ (⟨false, false, true, 0⟩ : Ports).en = false ∧
      ∃ (s s' t t' : State), s.rom = s'.rom ∧ s.ports.enabled = true ∧ s'.ports.enabled = true ∧ s.ports.inWord = s'.ports.inWord ∧
        step s = .next t ∧ step s' = .next t' ∧ s.s1 ≠ s'.s1 :=
  ⟨rfl, rfl, refBlock .rv32 0x13, { refBlock .rv32 0x13 with s1 := ⟨true, true, 0x37, true, 0, 16⟩ }, _, _, rfl, rfl, rfl, rfl,
    Laws.step_eq _, Laws.step_eq _, by decide⟩

theorem witness_UpperHalfIsDiscarded :
    (0xFFFF0001 : Word).extractLsb 1 0 ≠ 0b11#2 ∧ (0xFFFF0001 : Word).extractLsb 15 0 = (0x00000001 : Word).extractLsb 15 0 ∧
      (⟨false, true, true, 0x13⟩ : Ports).enabled = true ∧ (0x13 : Word).extractLsb 1 0 = 0b11#2 ∧
      ∀ p : Ports, ∃ t, stepWith p State.reset = .next t :=
  ⟨by decide, by decide, rfl, by decide, fun _ => ⟨_, Laws.stepWith_eq _ _⟩⟩

theorem witness_CatalogIsConstant :
    (∃ t, step (refBlock .rv64 0x8000) = .next t) ∧ ∃ t, exec (.add 1 2 3) (refBlock .rv32 0) = .next t :=
  ⟨⟨_, Laws.step_eq _⟩, _, Laws.exec_eq _ _⟩

/-- A block of one entry, with a hit in stage 1 and its result on the outputs. -/
def smallBlock : State :=
  { blockOf .rv32 [⟨0x13, 0x707F, false, 9⟩] 0x8000 with
    s1 := ⟨true, true, 0xFFF10093, true, 0, 9⟩
    out := ⟨true, true, 0xFFF10093, true, 0, 9, 0x013, { rd := 1, rs1 := 2, imm := 0xFFFFFFFF }⟩ }

theorem smallBlock_inv : smallBlock.Inv where
  entries := by unfold entryOk; decide
  stage1 := by unfold slotOk; decide
  stage2 := by unfold slotOk; decide
  codes := by decide
  fvalid := by decide
  fields := by decide

theorem witness_StepKeepsInvariant : smallBlock.Inv ∧ ∃ t, step smallBlock = .next t := ⟨smallBlock_inv, _, Laws.step_eq _⟩

theorem witness_RomWordAndSizes : smallBlock.Inv ∧ ∃ t, step smallBlock = .next t ∧ t.out.index = 0 :=
  ⟨smallBlock_inv, _, Laws.step_eq _, by decide⟩

theorem witness_InvariantHoldsAfterReset :
    ∃ s t : State, (∀ e ∈ s.rom, entryOk e) ∧ s.ports.rst = true ∧ step s = .next t ∧ ¬ s.s1 = Stage1.reset :=
  ⟨{ smallBlock with ports := ⟨true, true, true, 0⟩ }, _, smallBlock_inv.entries, rfl, Laws.step_eq _, by decide⟩

/-- One stall before the second enabled edge and two after it. -/
theorem witness_PipelineTiming :
    ∃ (s : State) (hold hold' : List Ports) (p : Ports), s.ports = ⟨false, true, true, 0x13⟩ ∧ s.stimulus = hold ++ p :: hold' ∧
      allStalled hold ∧ p.enabled = true ∧ allStalled hold' ∧ hold.length = 1 ∧ hold'.length = 2 :=
  ⟨{ refBlock .rv32 0x13 with stimulus := [⟨false, false, true, 1⟩, ⟨false, true, false, 0⟩, ⟨false, false, true, 2⟩, ⟨false, false, false, 3⟩] },
    [⟨false, false, true, 1⟩], [⟨false, false, true, 2⟩, ⟨false, false, false, 3⟩], ⟨false, true, false, 0⟩, rfl, rfl,
    by unfold allStalled; decide, rfl, by unfold allStalled; decide, rfl, rfl⟩

theorem witness_PipelineTiming_reset : (⟨true, true, true, 0⟩ : Ports).rst = true := rfl

theorem witness_OutputsAppearInOrder :
    ∀ p ∈ [(⟨false, true, true, 0x13⟩ : Ports), ⟨false, false, true, 0⟩, ⟨false, true, false, 0⟩], p.rst = false := by decide

theorem witness_SameWordSameOutputsAndBubblesDecode :
    ∃ (s s' t t' u u' : State) (a b : Ports), s.rom = s'.rom ∧ a.enabled = true ∧ b.enabled = true ∧ stepWith a s = .next t ∧
      stepWith b t = .next u ∧ stepWith a s' = .next t' ∧ stepWith b t' = .next u' ∧ s.out ≠ s'.out :=
  ⟨smallBlock, { smallBlock with out := Stage2.reset }, _, _, _, _, ⟨false, true, true, 0x13⟩, ⟨false, true, false, 0⟩, rfl, rfl, rfl,
    Laws.stepWith_eq _ _, Laws.stepWith_eq _ _, Laws.stepWith_eq _ _, Laws.stepWith_eq _ _, by decide⟩

theorem witness_NoMatchIsANormalResult :
    (∀ e ∈ (refBlock .rv32 0).rom, entryMatches e 0xFFFFFFFF = false) ∧ (∀ e ∈ (refBlock .rv32 0).rom, entryMatches e 0x8000 = false) ∧
      (⟨false, true, true, 0x13⟩ : Ports).enabled = true := by decide +kernel

/-- Two modules of one definition each, the 16-bit one first. -/
def smallModules : List CatalogModule :=
  [⟨"SMALLC", "C", 16, [("100 1 00000 00000 10 C.EBREAK", 0)]⟩, ⟨"SMALL", "I", 32, [("imm[11:0] rs1 000 rd 0010011 ADDI", 9)]⟩]

theorem witness_BuiltCatalogEntriesAreWellFormed :
    build smallModules = .ok ⟨[⟨0x13, 0x707F, false, 9⟩, ⟨0x9002, 0xFFFF, true, 0⟩], ["ADDI", "C.EBREAK"], 0x104, []⟩ := by decide +kernel

/-- A module of definitions that follow the width and the name of the module. -/
theorem witness_CompositionOrder :
    ∃ m ∈ smallModules, ∃ d ∈ m.defs, d.width = 16 ∧ d.moduleName = "SMALLC" := by decide +kernel

/-- A catalog whose third definition an earlier, more general one covers, and whose first can match no 32-bit word. -/
theorem witness_BuildReportsOverlapsAndDeadEntries :
    build [⟨"M", "I", 32, [("imm[31:7] 0010000 DEAD", 0), ("imm[31:7] 0010011 GENERAL", 0), ("imm[31:15] 000 imm[11:7] 0010011 ADDI", 0),
        ("imm[31:8] 1 imm[6:0] ODD", 0)]⟩] =
      .ok ⟨[⟨0x10, 0x7F, false, 0⟩, ⟨0x13, 0x7F, false, 0⟩, ⟨0x13, 0x707F, false, 0⟩, ⟨0x80, 0x80, false, 0⟩],
        ["DEAD", "GENERAL", "ADDI", "ODD"], 0x100,
        [.overlap 0 3, .fullshadow 1 2, .overlap 1 3, .overlap 2 3, .dead 0]⟩ := by decide +kernel

theorem witness_FirstFailureStopsTheBuild :
    (∀ m' ∈ smallModules, ∀ d' ∈ m'.defs, ∃ e, compile d' = .ok e) ∧
      compile ⟨"imm[11:0] rs1 000 rd 001001 ADDI", 32, 9, "BAD"⟩ = .error .m1 := by
  refine ⟨?_, by decide +kernel⟩
  intro m' hm d' hd
  simp only [smallModules, List.mem_cons, List.not_mem_nil, or_false] at hm
  rcases hm with rfl | rfl <;> obtain rfl := List.mem_singleton.mp hd
  · exact ⟨(⟨0x9002, 0xFFFF, true, 0⟩, "C.EBREAK"), by decide +kernel⟩
  · exact ⟨(⟨0x13, 0x707F, false, 9⟩, "ADDI"), by decide +kernel⟩

theorem witness_overlap_clauses :
    (0x9002 : Word) &&& ~~~0xFFFF = 0 ∧ (0x9002 : Word) &&& ~~~0xF003 = 0 ∧ ((0x9002 : Word) ^^^ 0x9002) &&& 0xFFFF &&& 0xF003 = 0 ∧
      ((0x13 : Word) ^^^ 0x13) &&& 0x7F &&& 0x707F = 0 ∧ (0x7F : Word) &&& ~~~0x707F = 0 ∧ (0x13 : Word) &&& ~~~0x7F = 0 ∧
      (0x00000093 : Word) &&& 0x707F = 0x13 := by decide

theorem witness_ReferenceCatalogsBuild :
    (∃ m ∈ referenceModules .rv32, m.name ∈ ["RV64I", "RV64M", "RV64A", "RV64F", "RV64D"]) ∧
      (referenceRom .rv32)[121]? = some ⟨0x12000073, 0xFE007FFF, false, 3⟩ ∧ (referenceRom .rv32)[122]? = some ⟨0, 0xE003, true, 42⟩ ∧
      (referenceRom .rv64)[196]?.isSome = true := by decide +kernel

theorem witness_ReferenceDiagnostics : 122 ≤ 122 ∧ 122 < 157 ∧ 122 ≤ 156 ∧ 156 < 157 ∧ 160 ≤ 160 ∧ 160 < 197 ∧ 160 ≤ 196 ∧ 196 < 197 := by
  decide

theorem witness_FormatCodesOfEachWidthClass :
    codeAllowed false 17 = true ∧ codeAllowed false 18 = false ∧ codeAllowed true 32 = true ∧ codeAllowed true 51 = true ∧
      codeAllowed true 52 = false ∧ codeAllowed true 31 = false ∧ codeAllowed (32 == 16) 48 = false ∧ codeAllowed (16 == 16) 15 = false ∧
      codeAllowed (!isLen4 0xFFF00093) 9 = true ∧ codeAllowed (!isLen4 0xFFF00093) 34 = false ∧ codeAllowed (!isLen4 0x4515) 9 = false ∧
      codeAllowed (!isLen4 0x4515) 63 = false := by decide

theorem witness_FieldMux :
    tagOfCode 18 = none ∧ tagOfCode 63 = none ∧ fvalidOf 0 = 0 ∧
      (⟨true, true, 0x13, true, 18, 9⟩ : Stage1).word = (⟨false, true, 0x13, true, 7, 9⟩ : Stage1).word := by decide

theorem witness_SignRule :
    ((9, 12) : Code × Nat) ∈ ([(9, 12)] : List (Code × Nat)) ∧ 12 ≤ 11 + 1 ∧ 12 ≤ 31 + 1 ∧
      (fieldsOf 9 0x80000013).imm.getLsbD 11 = true ∧ (fieldsOf 9 0x80000013).imm.getLsbD 31 = true ∧
      (fieldsOf 13 0x000F8073).imm.getLsbD 4 = true ∧ (fieldsOf 13 0x000F8073).imm.getLsbD 5 = false := by decide

theorem witness_DecodeOfEncodeIsTheInstruction :
    WellFormed (.jal 31 0x000FFFFE) = true ∧ (Instr.jal 31 0x000FFFFE).presentIn .rv32 = true ∧
      WellFormed (.cSlli64 31 63) = true ∧ (Instr.cSlli64 31 63).presentIn .rv64 = true := by decide

theorem witness_DecodedInstructionEncodesBack :
    (decodeWord .rv32 0xFFFF0001).toOption = some .cNop ∧ (decodeWord .rv32 0x8000).toOption = none ∧
      (decodeWord .rv128 0x13).toOption = none := by decide +kernel

theorem witness_StepRunsTheDecodedInstruction :
    (decodeWord (refBlock .rv32 0x003100B3).xlen (refBlock .rv32 0x003100B3).ports.inWord).toOption = some (.add 1 2 3) ∧
      (decodeWord (refBlock .rv32 0x8000).xlen (refBlock .rv32 0x8000).ports.inWord).toOption = none ∧
      (refBlock .rv32 0).stimulus = [] ∧
      ({ refBlock .rv32 0 with stimulus := [⟨true, true, true, 1⟩] } : State).stimulus = ⟨true, true, true, 1⟩ :: [] := by
  decide +kernel

theorem witness_LongPrefixesAndUnlistedOpcodesAreNoMatch :
    (0xFFFFFFFF : Word).extractLsb 4 2 = 0b111#3 ∧ (0x0000001F : Word).extractLsb 1 0 = 0b11#2 ∧
      (0x0000001F : Word).extractLsb 6 0 = 0b0011111 ∧ (0xFFFFFF8B : Word).extractLsb 6 0 = 0b0001011 := by decide

theorem witness_ReservedEncodingsAreNoMatch :
    (0x8000 : Word).extractLsb 1 0 = 0b00#2 ∧ (0x9FFC : Word).extractLsb 15 13 = 0b100#3 ∧
      (0x9C41 : Word).extractLsb 12 10 = 0b111#3 ∧ (0x9C41 : Word).getLsbD 6 = true ∧ (0x9C01 : Word).extractLsb 12 10 = 0b111#3 ∧
      (0x907D : Word).getLsbD 12 = true ∧ (0x907D : Word).getLsbD 11 = false ∧ (0x10FE : Word).getLsbD 12 = true ∧
      (0x02011093 : Word) &&& 0xFE00707F = 0x02001013 ∧ (0x42015093 : Word) &&& 0xFE00707F = 0x42005013 ∧
      (0x101120AF : Word) &&& 0xF800707F = 0x1000202F ∧ (0x101120AF : Word).extractLsb 24 20 ≠ 0#5 ∧
      (0x0000108F : Word) &&& 0x0000707F = 0x0000100F ∧ (0x0000108F : Word) ≠ 0x0000100F := by decide

theorem witness_ReservedAndHintEncodingsDecodeAsNamed :
    isPrime 8 = true ∧ isPrime 15 = true ∧ (0 : Reg) ≠ 2 ∧ fitsSext 18 0xFFFE0000 = true ∧ lowZero 12 0xFFFE0000 = true ∧
      fitsZext 8 252 = true ∧ lowZero 2 252 = true ∧ fitsSext 6 0xFFFFFFE0 = true ∧ (0xFFFFFFE0 : Word) ≠ 0 ∧ (31 : Reg) ≠ 0 ∧
      fitsSext 12 0x7FF = true ∧ fitsSext 12 0xFFFFF800 = true ∧ (0xFFFFF80F : Word) &&& 0x0000707F = 0x0000700F ∧
      (0x8330000F : Word) &&& 0x0000707F = 0x0000000F ∧ fitsFive 31 = true ∧ fitsZext 9 504 = true ∧ lowZero 3 504 = true := by decide

theorem witness_BranchTargetIsSumModuloWidth :
    (0xFFFFFFFE : Nat) % 2 = 0 ∧ (0xFFFFF000 : Word).toInt % 2 = 0 ∧ branchTarget .rv32 0xFFFFFFFE 4 = 2 := by decide

theorem witness_ElaborationOutcomes :
    xlenOfWidth 128 = some .rv128 ∧ (∃ c, build smallModules = .ok c) ∧
      build [⟨"BAD", "I", 32, [("BEQ", 15)]⟩] = .error ⟨"BAD", 0, "BEQ", .m5⟩ ∧ 33 ≠ 32 ∧ 33 ≠ 64 ∧ 33 ≠ 128 :=
  ⟨rfl, ⟨_, witness_BuiltCatalogEntriesAreWellFormed⟩, by decide +kernel, by decide, by decide, by decide⟩

theorem witness_ExtensionSetBits :
    (extensionSet [⟨"A", "A", 32, []⟩]).getLsbD 0 = true ∧ (extensionSet [⟨"Z", "Z", 32, []⟩]).getLsbD 25 = true ∧
      extensionSet [⟨"z", "z", 32, []⟩] = 0 := by decide +kernel

/-! ### The completion statements: a reference block of each XLEN at an enabled edge, and operands at the ends of their ranges -/

theorem witness_completion (x : XLen) (i : Instr) :
    ∃ s : State, s.rom = referenceRom x ∧ s.ports.rst = false ∧ s.ports.en = true ∧ s.s1 = ⟨true, true, 0x13, true, 18, 9⟩ ∧
      ∃ t, exec i s = .next t :=
  ⟨{ refBlock x 0 with s1 := ⟨true, true, 0x13, true, 18, 9⟩ }, rfl, rfl, rfl, rfl, _, Laws.exec_eq _ _⟩

theorem witness_next_enabled_edge : (⟨false, true, false, 0⟩ : Ports).rst = false ∧ (⟨false, true, false, 0⟩ : Ports).en = true := ⟨rfl, rfl⟩

theorem witness_ImmediateTagCompletes : fitsSext 12 0x7FF = true ∧ fitsSext 12 0xFFFFF800 = true := by decide
theorem witness_StoreTagCompletes : fitsSext 12 0x7FF = true ∧ fitsSext 12 0xFFFFF800 = true := by decide
theorem witness_ShiftTagsComplete : fitsFive 0 = true ∧ fitsFive 31 = true := by decide
theorem witness_CsrTagsComplete : fitsZext 5 0 = true ∧ fitsZext 5 31 = true := by decide
theorem witness_BranchTagCompletes :
    (fitsSext 13 0xFFE && lowZero 1 0xFFE) = true ∧ (fitsSext 13 0xFFFFF000 && lowZero 1 0xFFFFF000) = true := by decide
theorem witness_UpperAndJumpTagsComplete :
    lowZero 12 0xFFFFF000 = true ∧ (fitsSext 21 0xFFFFE && lowZero 1 0xFFFFE) = true ∧
      (fitsSext 21 0xFFF00000 && lowZero 1 0xFFF00000) = true := by decide
theorem witness_LoadReservedTagCompletes :
    (0x101120AF : Word) &&& 0xF800707F = 0x1000202F ∧ (0x101130AF : Word) &&& 0xF800707F = 0x1000302F ∧
      (0x101120AF : Word).extractLsb 24 20 ≠ 0#5 := by decide
theorem witness_CompressedRegisterTagsComplete :
    (1 : Reg) ≠ 0 ∧ (31 : Reg) ≠ 0 ∧ matchFmt (referenceRom .rv32) 0x852E = 32 ∧ matchFmt (referenceRom .rv64) 0x952E = 32 := by
  decide +kernel
theorem witness_CompressedImmediateTagsComplete :
    fitsSext 6 31 = true ∧ fitsSext 6 0xFFFFFFE0 = true ∧ ¬ ((0 : Reg) = 0 ∧ (31 : Word) = 0) ∧
      (fitsSext 18 0x1F000 && lowZero 12 0x1F000) = true ∧ (fitsSext 18 0xFFFE0000 && lowZero 12 0xFFFE0000) = true ∧ (0 : Reg) ≠ 2 ∧
      matchFmt (referenceRom .rv32) 0x6085 = 35 := by decide +kernel
theorem witness_CompressedStackAdjustAndShiftComplete :
    (fitsSext 10 496 && lowZero 4 496) = true ∧ (fitsSext 10 0xFFFFFE00 && lowZero 4 0xFFFFFE00) = true ∧ fitsFive 31 = true := by decide
theorem witness_CompressedStackLoadTagsComplete :
    (fitsZext 8 252 && lowZero 2 252) = true ∧ (fitsZext 9 504 && lowZero 3 504) = true ∧ fitsZext 8 0 = true := by decide
theorem witness_CompressedStackStoreTagsComplete :
    (fitsZext 8 252 && lowZero 2 252) = true ∧ (fitsZext 9 504 && lowZero 3 504) = true ∧ fitsZext 9 0 = true := by decide
theorem witness_CompressedWideImmediateTagCompletes :
    isPrime 8 = true ∧ isPrime 15 = true ∧ (fitsZext 10 1020 && lowZero 2 1020) = true ∧ fitsZext 10 0 = true := by decide
theorem witness_CompressedLoadStoreTagsComplete :
    isPrime 8 = true ∧ isPrime 15 = true ∧ (fitsZext 7 124 && lowZero 2 124) = true ∧ (fitsZext 8 248 && lowZero 3 248) = true := by decide
theorem witness_CompressedArithmeticTagCompletes : isPrime 8 = true ∧ isPrime 15 = true := by decide
theorem witness_CompressedBranchAndShiftTagsComplete :
    isPrime 8 = true ∧ isPrime 15 = true ∧ (fitsSext 9 254 && lowZero 1 254) = true ∧ (fitsSext 9 0xFFFFFF00 && lowZero 1 0xFFFFFF00) = true ∧
      fitsFive 31 = true ∧ fitsSext 6 31 = true ∧ fitsSext 6 0xFFFFFFE0 = true := by decide
theorem witness_CompressedJumpTagCompletes :
    (fitsSext 12 2046 && lowZero 1 2046) = true ∧ (fitsSext 12 0xFFFFF800 && lowZero 1 0xFFFFF800) = true := by decide

end Sys2Proof.Tests
end

section
/-! # O33: the ROM word and the index width

The ROM word is a concatenation, so each field is read back by slicing it. The index width is the rounded-up logarithm because
a power of two lies above `m - 1` exactly when it is at least `m`. That the index registers fit is an invariant of the clock
edge: a reset edge clears them, an enabled edge loads a match index and moves the first register into the second, and a hold
keeps both. -/

namespace Sys2Proof.Proofs

open Sys2Proof.Machine Sys2Proof.Laws

/-! ## The ROM word (R59) -/

theorem packEntry_value (e : Entry) : (packEntry e).extractLsb 31 0 = e.value := BitVec.extractLsb'_append_eq_right

theorem packEntry_mask (e : Entry) : (packEntry e).extractLsb 63 32 = e.mask :=
  calc (packEntry e).extractLsb 63 32
    _ = (e.fmt ++ BitVec.ofBool e.w16 ++ e.mask).extractLsb' 0 32 := BitVec.extractLsb'_append_eq_of_le le_rfl
    _ = e.mask := BitVec.extractLsb'_append_eq_right

theorem packEntry_w16 (e : Entry) : (packEntry e).getLsbD 64 = e.w16 := by
  simp only [packEntry, BitVec.getLsbD_append]
  simp

theorem packEntry_fmt (e : Entry) : (packEntry e).extractLsb 70 65 = e.fmt :=
  calc (packEntry e).extractLsb 70 65
    _ = (e.fmt ++ BitVec.ofBool e.w16 ++ e.mask).extractLsb' 33 6 := BitVec.extractLsb'_append_eq_of_le (by decide)
    _ = (e.fmt ++ BitVec.ofBool e.w16).extractLsb' 1 6 := BitVec.extractLsb'_append_eq_of_le (by decide)
    _ = e.fmt := BitVec.extractLsb'_append_eq_left

theorem unpackEntry_packEntry (e : Entry) : unpackEntry (packEntry e) = e := by
  rw [unpackEntry, packEntry_value, packEntry_mask, packEntry_w16, packEntry_fmt]

/-! ## The index width (R8) -/

theorem log2_pred_succ_eq_clog {m : Nat} (hm : 2 ≤ m) : Nat.log2 (m - 1) + 1 = Nat.clog 2 m := by
  refine eq_of_forall_ge_iff fun c => ?_
  calc Nat.log2 (m - 1) + 1 ≤ c ↔ m - 1 < 2 ^ c := Nat.log2_lt (by omega)
    _ ↔ m ≤ 2 ^ c := by omega
    _ ↔ Nat.clog 2 m ≤ c := (Nat.clog_le_iff_le_pow Nat.one_lt_two).symm

theorem idxWidth_eq_clog (n : Nat) : idxWidth n = max 1 (Nat.clog 2 (max n 2)) := by
  rw [idxWidth, log2_pred_succ_eq_clog (le_max_right n 2)]

theorem referenceRom_length_rv32 : (referenceRom .rv32).length = 157 := by decide +kernel

theorem referenceRom_length_rv64 : (referenceRom .rv64).length = 197 := by decide +kernel

/-! ## The index registers -/

/-- Both index registers fit in the index width of the block's ROM. -/
def IndicesFit (s : State) : Prop :=
  s.s1.index < 2 ^ idxWidth s.rom.length ∧ s.out.index < 2 ^ idxWidth s.rom.length

theorem indicesFit_of_inv {s : State} (h : s.Inv) : IndicesFit s := by
  obtain ⟨-, -, h1, -⟩ := h.stage1
  obtain ⟨-, -, h2, -⟩ := h.stage2
  exact ⟨h1, h2⟩

theorem indicesFit_edgeWith {s : State} (w : Word) (h : IndicesFit s) : IndicesFit (edgeWith w s) := by
  rcases edgeWith_cases w s with ⟨-, e⟩ | ⟨-, -, e⟩ | ⟨-, -, e⟩ <;> rw [e]
  · exact ⟨Nat.two_pow_pos _, Nat.two_pow_pos _⟩
  · exact ⟨matchIndex_lt s.rom w, h.1⟩
  · exact h

theorem indicesFit_nextPorts {s : State} (h : IndicesFit s) : IndicesFit (nextPorts s) := by
  simpa [IndicesFit] using h

/-- Every step keeps the index registers within their width. -/
theorem indicesFit_step {s t : State} (h : IndicesFit s) (ht : step s = .next t) : IndicesFit t := by
  rw [step_eq] at ht
  cases ht
  exact indicesFit_nextPorts (indicesFit_edgeWith _ h)

/-- Settles O33: the fields are slices of the packed word, the width is a bit length, and the index bound is an invariant. -/
theorem romWordAndSizes : Obligations.RomWordAndSizes :=
  ⟨fun e => ⟨packEntry_fmt e, packEntry_w16 e, packEntry_mask e, packEntry_value e, unpackEntry_packEntry e⟩,
    idxWidth_eq_clog, by rw [referenceRom_length_rv32]; decide, by rw [referenceRom_length_rv64]; decide,
    matchIndex_lt, fun _ _ h ht => indicesFit_step (indicesFit_of_inv h) ht⟩

end Sys2Proof.Proofs
end

section
/-! # O10, O1, O8, O9, O15, O34: the state and its invariants

A step is a clock edge after which the ports move on (`Laws.step_eq`), and a clock edge is a reset edge, an enabled edge or a hold
(`Laws.edgeWith_cases`). So each claim about every step is one fact for each kind of edge, and one about the move of the ports. The
entry invariants and the extension set are facts about the build, which runs once. -/

namespace Sys2Proof.Proofs

open Sys2Proof.Machine Sys2Proof.Laws

/-! ## The slot invariant (R20, R23, R24) -/

/-- The invariant is about the ROM and the two stages: the input ports have no part in it. -/
theorem inv_of_registers_eq {s t : State} (hrom : t.rom = s.rom) (h1 : t.s1 = s.s1) (ho : t.out = s.out) (h : s.Inv) : t.Inv where
  entries := hrom ▸ h.entries
  stage1 := by rw [hrom, h1]; exact h.stage1
  stage2 := by rw [hrom, ho]; exact h.stage2
  codes := by rw [h1, ho]; exact h.codes
  fvalid := by rw [ho]; exact h.fvalid
  fields := by rw [ho]; exact h.fields

theorem inv_nextPorts {s : State} (h : s.Inv) : (nextPorts s).Inv :=
  inv_of_registers_eq (nextPorts_rom s) (nextPorts_s1 s) (nextPorts_out s) h

theorem slotOk_zero (rom : List Entry) : slotOk rom false false 0#32 false 0 0#6 :=
  ⟨by decide, by decide, Nat.two_pow_pos _, nofun, fun _ => ⟨rfl, rfl, nofun⟩⟩

/-- What the matcher loads is a slot: a hit is the first match with its entry's tag, a miss is zeros and no match at all. -/
theorem slotOk_matchSlot (rom : List Entry) (v : Bool) (w : Word) :
    slotOk rom (matchSlot rom v w).valid (matchSlot rom v w).len4 (matchSlot rom v w).word (matchSlot rom v w).hit
      (matchSlot rom v w).index (matchSlot rom v w).fmt := by
  rcases matchSlot_cases rom v w with ⟨k, e, hk, he, -, eq⟩ | ⟨hn, eq⟩ <;> rw [eq]
  · have hlt : k < rom.length := (List.getElem?_eq_some_iff.mp he).1
    exact ⟨truncWord_truncWord w, (isLen4_truncWord w).symm, lt_idxWidth hlt,
      fun _ => ⟨by rw [firstMatch_truncWord, hk], by rw [he]; rfl⟩, nofun⟩
  · exact ⟨truncWord_truncWord w, (isLen4_truncWord w).symm, Nat.two_pow_pos _, nofun,
      fun _ => ⟨rfl, rfl, fun _ => by rw [firstMatch_truncWord, hn]⟩⟩

/-- A reset edge needs well-formed entries alone: it clears both stages. -/
theorem inv_resetEdge {s : State} (h : ∀ e ∈ s.rom, entryOk e) : (resetEdge s).Inv where
  entries := h
  stage1 := slotOk_zero s.rom
  stage2 := slotOk_zero s.rom
  codes := ⟨codeAllowed_zero _, codeAllowed_zero _⟩
  fvalid := rfl
  fields := rfl

theorem codeAllowed_of_entryOk {e : Entry} : entryOk e → codeAllowed e.w16 e.fmt = true
  | ⟨_, _, hcode⟩ => hcode

/-- At an enabled edge the first slot moves on, so its code is one the extractor works by as it stands (R57). -/
theorem inv_enabledEdge {s : State} (w : Word) (h : s.Inv) : (enabledEdge w s).Inv where
  entries := h.entries
  stage1 := slotOk_matchSlot s.rom s.ports.inValid w
  stage2 := h.stage1
  codes := ⟨codeAllowed_matchFmt (fun e he => codeAllowed_of_entryOk (h.entries e he)) w, h.codes.1⟩
  fvalid := congrArg fvalidOf (extractorCode_of_allowed h.codes.1)
  fields := congrArg (fieldsOf · s.s1.word) (extractorCode_of_allowed h.codes.1)

theorem inv_edgeWith {s : State} (w : Word) (h : s.Inv) : (edgeWith w s).Inv := by
  rcases edgeWith_cases w s with ⟨-, e⟩ | ⟨-, -, e⟩ | ⟨-, -, e⟩ <;> rw [e]
  · exact inv_resetEdge h.entries
  · exact inv_enabledEdge w h
  · exact h

/-- Settles O10: each kind of edge keeps the invariant, and so does the move of the ports. -/
theorem stepKeepsInvariant : Obligations.StepKeepsInvariant := by
  intro s t h ht
  rw [step_eq] at ht
  cases ht
  exact inv_nextPorts (inv_edgeWith _ h)

/-! ## A reset edge (R34, R180) -/

theorem step_of_rst {s : State} (h : s.ports.rst = true) : step s = .next (nextPorts (resetEdge s)) := by
  rw [step_eq, edgeWith_reset _ h]

/-- Settles O1: a step at a reset edge is `resetEdge`, whose registers are those of the reset table. -/
theorem resetEdgeGivesResetValues : Obligations.ResetEdgeGivesResetValues := fun _ h => step_of_rst h

/-! ## The constants (R21) -/

/-- The block is the same one: ROM, `EXT_SET` and XLEN are as they were. -/
def SameBlock (t s : State) : Prop := t.rom = s.rom ∧ t.extSet = s.extSet ∧ t.xlen = s.xlen

theorem sameBlock_edgeWith (w : Word) (s : State) : SameBlock (edgeWith w s) s :=
  ⟨edgeWith_rom w s, edgeWith_extSet w s, edgeWith_xlen w s⟩

theorem sameBlock_step {s t : State} (h : step s = .next t) : SameBlock t s := by
  rw [step_eq] at h
  cases h
  simpa only [SameBlock, nextPorts_rom, nextPorts_extSet, nextPorts_xlen] using sameBlock_edgeWith s.ports.inWord s

theorem sameBlock_exec {i : Instr} {s t : State} (h : exec i s = .next t) : SameBlock t s := by
  rw [exec_eq] at h
  cases h
  exact sameBlock_edgeWith (encode i) s

/-- Settles O8: no kind of edge writes a constant, whether a step or an instruction takes it. -/
theorem catalogIsConstant : Obligations.CatalogIsConstant := ⟨fun _ _ => sameBlock_step, fun _ _ _ => sameBlock_exec⟩

/-! ## The invariant after a reset edge -/

theorem opcodeTable_entryOk : ∀ r ∈ opcodeTable, entryOk r.entry := by unfold entryOk; decide +kernel

theorem referenceRom_entryOk (x : XLen) : ∀ e ∈ referenceRom x, entryOk e := by
  intro e he
  obtain ⟨r, hr, rfl⟩ := List.mem_map.mp he
  exact opcodeTable_entryOk r (List.mem_filter.mp hr).1

/-- Settles O9: a reset edge establishes the invariant, and the reset state is what a reset edge leaves of itself. -/
theorem invariantHoldsAfterReset : Obligations.InvariantHoldsAfterReset := by
  refine ⟨inv_resetEdge (s := State.reset) (referenceRom_entryOk _), fun s t he hr ht => ?_⟩
  rw [step_of_rst hr] at ht
  cases ht
  exact inv_nextPorts (inv_resetEdge he)

/-! ## The entries of a built catalog (R20, R73) -/

/-- A value inside its mask has no bit where the mask has none. -/
theorem value_upper_of_mask {value mask : Word} (h : value &&& ~~~mask = 0) (hm : mask.extractLsb 31 16 = 0) :
    value.extractLsb 31 16 = 0 :=
  calc value.extractLsb 31 16
    _ = value.extractLsb 31 16 &&& ~~~mask.extractLsb 31 16 := by rw [hm]; exact BitVec.and_allOnes.symm
    _ = (value &&& ~~~mask).extractLsb 31 16 := by rw [BitVec.extractLsb_and, BitVec.extractLsb_not_of_lt (by decide) (by decide)]
    _ = 0 := by rw [h]; rfl

/-- The codes of each width class, as numbers (R57). -/
theorem codeAllowed_range : ∀ (w16 : Bool) (c : Code), codeAllowed w16 c = true →
    (w16 = false ∧ c.toNat ≤ 17) ∨ (w16 = true ∧ (c = 0 ∨ (32 ≤ c.toNat ∧ c.toNat ≤ 51))) := by decide +kernel

/-- Every entry of a built catalog is compiled from a definition of its modules. -/
theorem compile_of_mem_build {ms : List CatalogModule} {c : Catalog} {e : Entry} (h : build ms = .ok c) (he : e ∈ c.entries) :
    ∃ d ∈ ms.flatMap CatalogModule.defs, ∃ n, compile d = .ok (e, n) := by
  obtain ⟨l, hl, hentries, -⟩ := (build_ok_iff ms c).mp h
  have hmem : ∃ n, (e, n) ∈ l := by
    rw [hentries] at he
    simp only [List.mem_map, List.mem_append, List.mem_filter] at he
    obtain ⟨⟨e', n⟩, hp, rfl⟩ := he
    exact ⟨n, hp.elim And.left And.left⟩
  obtain ⟨n, hn⟩ := hmem
  have hok : Except.ok (e, n) ∈ (ms.flatMap CatalogModule.defs).map compile := by
    rw [(compileModules_ok_iff ms l).mp hl]
    exact List.mem_map_of_mem hn
  obtain ⟨d, hd, hc⟩ := List.mem_map.mp hok
  exact ⟨d, hd, n, hc⟩

theorem build_names_length {ms : List CatalogModule} {c : Catalog} (h : build ms = .ok c) : c.names.length = c.entries.length := by
  obtain ⟨l, -, hentries, hnames, -⟩ := (build_ok_iff ms c).mp h
  rw [hentries, hnames, List.length_map, List.length_map]

/-- A token's width fails with M3 or M4 alone. -/
theorem tokenWidth_ne_m6 (t : Token) : tokenWidth t ≠ .error .m6 := by
  unfold tokenWidth
  split
  · simp
  · split <;> simp
  · split <;> simp

theorem checkTokens_ne_m6 (toks : List (List Char)) : checkTokens toks ≠ .error .m6 := by
  induction toks with
  | nil => simp [checkTokens]
  | cons cs rest ih =>
    cases hp : parseToken cs with
    | none => simp [checkTokens, hp]
    | some t =>
      cases hw : tokenWidth t with
      | error r =>
        have ht : r ≠ .m6 := fun hr => tokenWidth_ne_m6 t (hr ▸ hw)
        simpa [checkTokens, hp, hw] using ht
      | ok w =>
        cases hc : checkTokens rest with
        | error r =>
          have hrest : r ≠ .m6 := fun hr => ih (hr ▸ hc)
          simpa [checkTokens, hp, hw, hc] using hrest
        | ok ts => simp [checkTokens, hp, hw, hc]

/-- M6 asks for a value bit outside the mask, and the loop of R71 writes none. -/
theorem compile_ne_m6 (d : Definition) : compile d ≠ .error .m6 := by
  intro h
  unfold compile at h
  split at h
  case isTrue => cases h -- M7
  split at h
  case isTrue => cases h -- M8
  simp only at h
  split at h
  case h_1 => cases h -- M5, no token
  split at h
  case isTrue => cases h -- M5
  split at h
  case h_1 r hr =>
    cases h
    exact checkTokens_ne_m6 _ hr
  split at h
  case isTrue => cases h -- M1
  split at h
  case isTrue hv => exact hv (placeTokens_value_in_mask _ _ _ (by decide))
  case isFalse => cases h

/-- Settles O15: an entry of a built catalog is a compiled one, and compilation keeps its value inside its mask. -/
theorem builtCatalogEntriesAreWellFormed : Obligations.BuiltCatalogEntriesAreWellFormed := by
  refine ⟨fun ms c h => ⟨build_names_length h, fun e he => ?_⟩, compile_ne_m6⟩
  obtain ⟨d, -, n, hd⟩ := compile_of_mem_build h he
  obtain ⟨hv, hm, hc⟩ := compile_entry hd
  exact ⟨hv, fun hw => ⟨hm hw, value_upper_of_mask hv (hm hw)⟩, codeAllowed_range _ _ hc⟩

/-! ## The extension set (R22, R78) -/

/-- The extension that owns bit `k` of `EXT_SET`, for `k` up to 28. -/
def extensionName (k : Nat) : String :=
  if k ≤ 25 then String.singleton (Char.ofNat (65 + k))
  else if k = 26 then "Zicsr" else if k = 27 then "Zifencei" else "Priv"

theorem extensionBit_extensionName : ∀ k ≤ 28, extensionBit (extensionName k) = BitVec.twoPow 32 k := by decide +kernel

/-- Only the 29 extensions of R22 have a bit. -/
theorem eq_extensionName_of_extensionBit_ne_zero {ext : String} (h : extensionBit ext ≠ 0) : ∃ k ≤ 28, ext = extensionName k := by
  unfold extensionBit at h
  split at h
  case h_1 c hc =>
    have hu : isUpper c = true := by by_contra hu; simp [hu] at h
    simp only [isUpper, Bool.and_eq_true, decide_eq_true_eq] at hu
    obtain ⟨hlo, hhi⟩ := hu
    refine ⟨c.toNat - 65, by omega, ?_⟩
    rw [extensionName, if_pos (by omega), show 65 + (c.toNat - 65) = c.toNat by omega, Char.ofNat_toNat]
    exact String.toList_injective (by rw [hc, String.toList_singleton])
  case h_2 =>
    split at h
    case isTrue he => exact ⟨26, by decide, he⟩
    split at h
    case isTrue he => exact ⟨27, by decide, he⟩
    split at h
    case isTrue he => exact ⟨28, by decide, he⟩
    exact absurd rfl h

theorem getLsbD_extensionBit {ext : String} {k : Nat} :
    (extensionBit ext).getLsbD k = true ↔ k ≤ 28 ∧ ext = extensionName k := by
  constructor
  · intro h
    obtain ⟨j, hj, rfl⟩ := eq_extensionName_of_extensionBit_ne_zero (ext := ext) (by rintro h0; simp [h0] at h)
    rw [extensionBit_extensionName j hj, BitVec.getLsbD_twoPow] at h
    obtain rfl : j = k := by simpa using (Bool.and_eq_true_iff.mp h).2
    exact ⟨hj, rfl⟩
  · rintro ⟨hk, rfl⟩
    rw [extensionBit_extensionName k hk, BitVec.getLsbD_twoPow]
    simp only [decide_true, Bool.and_true, decide_eq_true_eq]
    omega

theorem getLsbD_foldl_extensionBit (k : Nat) : ∀ (ms : List CatalogModule) (v : BitVec 32),
    (ms.foldl (fun s m => s ||| extensionBit m.ext) v).getLsbD k = true ↔
      v.getLsbD k = true ∨ ∃ m ∈ ms, (extensionBit m.ext).getLsbD k = true
  | [], v => by simp
  | m :: ms, v => by
    rw [List.foldl_cons, getLsbD_foldl_extensionBit k ms]
    simp [or_assoc]

theorem getLsbD_extensionSet {ms : List CatalogModule} {k : Nat} :
    (extensionSet ms).getLsbD k = true ↔ k ≤ 28 ∧ ∃ m ∈ ms, m.ext = extensionName k := by
  rw [extensionSet, getLsbD_foldl_extensionBit]
  simp only [getLsbD_extensionBit, BitVec.getLsbD_zero, Bool.false_eq_true, false_or]
  exact ⟨fun ⟨m, hm, hk, he⟩ => ⟨hk, m, hm, he⟩, fun ⟨hk, m, hm, he⟩ => ⟨m, hm, hk, he⟩⟩

/-- The bit that an extension owns is set exactly when some module names that extension. -/
theorem getLsbD_extensionSet_of_name {ms : List CatalogModule} {k : Nat} {name : String} (hk : k ≤ 28)
    (hname : extensionName k = name) : (extensionSet ms).getLsbD k = true ↔ ∃ m ∈ ms, m.ext = name := by
  rw [getLsbD_extensionSet, hname, and_iff_right hk]

theorem extensionSet_upper (ms : List CatalogModule) : (extensionSet ms).extractLsb 31 29 = 0 := by
  apply BitVec.eq_of_getLsbD_eq
  intro i hi
  have hoff : (extensionSet ms).getLsbD (29 + i) = false := by
    rw [Bool.eq_false_iff, Ne, getLsbD_extensionSet]
    omega
  simp only [BitVec.getLsbD_extractLsb, hoff]
  simp

theorem extensionSet_referenceModules (x : XLen) : extensionSet (referenceModules x) = 0x1C00112D := by
  cases x <;> decide +kernel

/-- Settles O34: bit by bit over the names of R22; the reference value is evaluated, and no step writes it. -/
theorem extensionSetBits : Obligations.ExtensionSetBits :=
  ⟨fun _ _ hk => getLsbD_extensionSet_of_name (by omega) (if_pos hk),
    fun ms => ⟨getLsbD_extensionSet_of_name (by decide) rfl, getLsbD_extensionSet_of_name (by decide) rfl,
      getLsbD_extensionSet_of_name (by decide) rfl, extensionSet_upper ms⟩,
    extensionSet_referenceModules, rfl, fun _ _ h => have ⟨_, hext, _⟩ := sameBlock_step h; hext⟩

end Sys2Proof.Proofs
end

section
/-! # O12: the stream of outputs (R45, R183)

An enabled edge shows the extraction of what stage 1 held and loads the accepted word's match into stage 1; a stalled edge does neither.
So stage 1 is a queue of one slot, and the induction over the port levels needs no fact about the state but what stage 1 holds: the
slot that an edge shows is the slot that the edge before it accepted. -/

namespace Sys2Proof.Proofs

open Sys2Proof.Machine Sys2Proof.Laws

theorem enabled_or_stalled {p : Ports} (h : p.rst = false) : p.enabled = true ∨ p.stalled = true := by
  cases he : p.en
  · exact .inr (by simp [Ports.stalled, h, he])
  · exact .inl (by simp [Ports.enabled, h, he])

theorem enabled_eq_false_of_stalled {p : Ports} (h : p.stalled = true) : p.enabled = false := by
  simp only [Ports.stalled, Bool.and_eq_true, Bool.not_eq_true'] at h
  simp [Ports.enabled, h.2]

theorem stepWith_of_enabled {p : Ports} (h : p.enabled = true) (s : State) :
    stepWith p s = .next (enabledEdge p.inWord { s with ports := p, stimulus := [] }) := by
  rw [stepWith_eq, edgeWith_of_enabled _ h]

/-- A stalled edge writes no register. -/
theorem stepWith_of_stalled {p : Ports} (h : p.stalled = true) (s : State) :
    stepWith p s = .next { s with ports := p, stimulus := [] } := by
  rw [stepWith_eq, edgeWith_of_stalled _ h]

theorem outputsOver_cons_enabled {p : Ports} (h : p.enabled = true) (ps : List Ports) (s : State) :
    outputsOver (p :: ps) s =
      extractSlot s.s1 :: outputsOver ps (enabledEdge p.inWord { s with ports := p, stimulus := [] }) := by
  simp only [outputsOver, stepWith_of_enabled h, h, if_true, enabledEdge_out]

theorem outputsOver_cons_stalled {p : Ports} (h : p.stalled = true) (ps : List Ports) (s : State) :
    outputsOver (p :: ps) s = outputsOver ps { s with ports := p, stimulus := [] } := by
  simp only [outputsOver, stepWith_of_stalled h, enabled_eq_false_of_stalled h, Bool.false_eq_true, if_false]

/-- Every slot that has stood in stage 1, extracted, by the end of a run with these port levels: the one that stood there at its
start, then one for each accepted word. -/
def slotsOf (ps : List Ports) (s : State) : List Stage2 :=
  extractSlot s.s1 :: (ps.filter Ports.enabled).map fun p => decodeSlot s.rom p.inValid p.inWord

/-- An accepted word is the slot that the rest of the run starts from. -/
theorem slotsOf_cons_enabled {p : Ports} (h : p.enabled = true) (ps : List Ports) (s : State) :
    slotsOf (p :: ps) s =
      extractSlot s.s1 :: slotsOf ps (enabledEdge p.inWord { s with ports := p, stimulus := [] }) := by
  simp only [slotsOf, List.filter_cons_of_pos h, List.map_cons, enabledEdge_s1, enabledEdge_rom, decodeSlot]

theorem slotsOf_cons_stalled {p : Ports} (h : p.stalled = true) (ps : List Ports) (s : State) :
    slotsOf (p :: ps) s = slotsOf ps { s with ports := p, stimulus := [] } := by
  simp only [slotsOf, List.filter_cons, enabled_eq_false_of_stalled h, Bool.false_eq_true, if_false]

theorem slotsOf_ne_nil (ps : List Ports) (s : State) : slotsOf ps s ≠ [] := List.cons_ne_nil _ _

/-- The outputs of a run without a reset are its slots but the last, which is still in stage 1. -/
theorem outputsOver_eq_dropLast_slotsOf (ps : List Ports) (s : State) (h : ∀ p ∈ ps, p.rst = false) :
    outputsOver ps s = (slotsOf ps s).dropLast := by
  induction ps generalizing s with
  | nil => rfl
  | cons p ps ih =>
    obtain ⟨hp, hps⟩ := List.forall_mem_cons.mp h
    rcases enabled_or_stalled hp with he | hs
    · rw [outputsOver_cons_enabled he, slotsOf_cons_enabled he, List.dropLast_cons_of_ne_nil (slotsOf_ne_nil _ _), ih _ hps]
    · rw [outputsOver_cons_stalled hs, slotsOf_cons_stalled hs, ih _ hps]

/-- Settles O12, by induction on the port levels, for every content of stage 1. -/
theorem outputsAppearInOrder : Obligations.OutputsAppearInOrder := outputsOver_eq_dropLast_slotsOf

end Sys2Proof.Proofs
end

section
/-! # O21, O28, O29, O30: codes of the width classes, and what reserved encodings give

A word that has certain literal bits is NoMatch when those bits contradict some literal of every entry of its class. The catalog is
finite, so that is one evaluation for each pattern of literals, whatever the other bits of the word (R51, R60, R64). Where instead
an instruction's word is its row's first match, the decoder runs that row, and the row makes the instruction again (R63). -/

namespace Sys2Proof.Proofs

open Sys2Proof.Machine Sys2Proof.Laws

/-! ## Tag codes and width classes (R57, R72, R95) -/

theorem codeAllowed_iff : ∀ (w16 : Bool) (c : Code), codeAllowed w16 c = true ↔
    c.toNat ≤ 17 ∧ w16 = false ∨ (c = 0 ∨ 32 ≤ c.toNat ∧ c.toNat ≤ 51) ∧ w16 = true := by decide +kernel

theorem bit5_of_codeAllowed {w16 : Bool} {c : Code} (h : codeAllowed w16 c = true) (h0 : c ≠ 0) : c.getLsbD 5 = w16 := by
  simp only [codeAllowed, Bool.and_eq_true, Bool.or_eq_true, beq_iff_eq] at h
  exact h.2.resolve_left h0

theorem compile_of_not_allowed {d : Definition} (hw : d.width = 16 ∨ d.width = 32)
    (h : codeAllowed (d.width == 16) d.tag = false) : compile d = .error .m8 := by
  rw [compile, if_neg (not_not_intro hw), if_pos (by rw [h]; rfl)]

theorem fieldsOf_zero (w : Word) : fieldsOf 0 w = {} := fieldsOf_tagCode .none w

/-- Every entry of a built catalog carries a code of its own class. -/
theorem codeAllowed_of_build {ms : List CatalogModule} {c : Catalog} (h : build ms = .ok c) :
    ∀ e ∈ c.entries, codeAllowed e.w16 e.fmt = true := by
  intro e he
  obtain ⟨d, -, n, hd⟩ := compile_of_mem_build h he
  obtain ⟨-, -, hc⟩ := compile_entry hd
  exact hc

/-- Settles O21: the codes are counted out, and the last clause is a fact about the entries of a build. -/
theorem formatCodesOfEachWidthClass : Obligations.FormatCodesOfEachWidthClass := by
  refine ⟨codeAllowed_iff, fun _ _ => bit5_of_codeAllowed, fun _ => compile_of_not_allowed, fun s1 h => ?_, fun s1 h => ?_,
    fun ms c w h => codeAllowed_matchFmt (codeAllowed_of_build h) w⟩
  · rw [extractSlot_fvalid, extractSlot_fields, extractorCode_of_allowed h]
    exact ⟨rfl, rfl⟩
  · rw [extractSlot_fvalid, extractSlot_fields, extractorCode_of_not_allowed h]
    exact ⟨rfl, fieldsOf_zero _⟩

/-! ## Literal bits of a word -/

/-- The mask of the bits `hi` to `lo`. -/
def fieldMask (hi lo : Nat) : Word := (BitVec.allOnes (hi - lo + 1)).setWidth 32 <<< lo

theorem literals_of_extractLsb {w : Word} {hi lo : Nat} {v : BitVec (hi - lo + 1)} (h : w.extractLsb hi lo = v) :
    w &&& fieldMask hi lo = v.setWidth 32 <<< lo := by
  subst h
  apply BitVec.eq_of_getLsbD_eq
  intro i hi32
  simp only [fieldMask, BitVec.getLsbD_and, BitVec.getLsbD_shiftLeft, BitVec.getLsbD_setWidth, BitVec.getLsbD_allOnes,
    BitVec.getLsbD_extractLsb]
  by_cases hlo : i < lo
  · simp [hlo]
  · rw [Nat.add_sub_of_le (not_lt.mp hlo), Bool.and_comm (w.getLsbD i)]
    grind

theorem literals_of_set_bit {w : Word} {i : Nat} (h : w.getLsbD i = true) : w &&& BitVec.twoPow 32 i = BitVec.twoPow 32 i := by
  rw [BitVec.and_twoPow, if_pos h]

theorem literals_of_clear_bit {w : Word} {i : Nat} (h : w.getLsbD i = false) : w &&& BitVec.twoPow 32 i = 0 := by
  rw [BitVec.and_twoPow, if_neg (by simp [h])]; rfl

/-- Literal bits at two sets of positions are literal bits at their union. -/
theorem literals_or {w m v m' v' : Word} (h : w &&& m = v) (h' : w &&& m' = v') : w &&& (m ||| m') = v ||| v' := by
  rw [← h, ← h', BitVec.and_or_distrib_left]

/-- Where a word has the literals of one mask but not of another, some bit in which the masks differ is set. -/
theorem exists_bit_of_literals_ne {w m m' v : Word} (h : w &&& m = v) (hne : w &&& m' ≠ v) :
    ∃ i : Fin 32, (m ^^^ m').getLsbD i = true ∧ w.getLsbD i = true := by
  by_contra hno
  refine hne (h ▸ BitVec.eq_of_getLsbD_eq fun i hi => ?_)
  rw [BitVec.getLsbD_and, BitVec.getLsbD_and]
  cases hw : w.getLsbD i with
  | false => rfl
  | true =>
    have hsame : (m ^^^ m').getLsbD i = false := Bool.eq_false_iff.mpr fun hd => hno ⟨⟨i, hi⟩, hd, hw⟩
    rw [BitVec.getLsbD_xor, bne_eq_false_iff_eq] at hsame
    rw [hsame]

/-! ## Words that no entry matches (R87, R88) -/

/-- The literals `value` at `mask` settle the width class of a word, and lie within the word that the matcher compares (R85, R86). -/
def decidesClass (mask value : Word) : Bool :=
  mask.extractLsb 1 0 == 0b11#2 && (isLen4 value || 0xFFFF &&& mask == mask)

/-- The literals settle the width class, and contradict a literal bit of each entry of that class. -/
def excludes (rom : List Entry) (mask value : Word) : Bool :=
  decidesClass mask value &&
    rom.all fun e => !((!isLen4 value) == e.w16 && overlaps ⟨value, mask, !isLen4 value, 0⟩ e)

theorem isLen4_of_literals {w mask value : Word} (hm : mask.extractLsb 1 0 = 0b11#2) (h : w &&& mask = value) :
    isLen4 value = isLen4 w := by
  rw [← h, isLen4, isLen4, BitVec.extractLsb_and, hm, show (0b11#2) = BitVec.allOnes 2 from rfl, BitVec.and_allOnes]

theorem compressed_lowHalf_eq_and (w : Word) : compressed (lowHalf w) = w &&& 0xFFFF := by
  apply BitVec.eq_of_toNat_eq
  calc (compressed (lowHalf w)).toNat
    _ = 0 <<< 16 ||| (w.extractLsb 15 0).toNat := BitVec.toNat_append (0#16) (w.extractLsb 15 0)
    _ = w.toNat % 2 ^ 16 := by simp
    _ = (w &&& 0xFFFF).toNat := (Nat.and_two_pow_sub_one_eq_mod w.toNat 16).symm

theorem entryMatches_of_literals {w mask value : Word} {code : Code} (hd : decidesClass mask value = true) (h : w &&& mask = value) :
    entryMatches ⟨value, mask, !isLen4 value, code⟩ w = true := by
  simp only [decidesClass, Bool.and_eq_true, Bool.or_eq_true, beq_iff_eq] at hd
  obtain ⟨hclass, hwithin⟩ := hd
  have h4 := isLen4_of_literals hclass h
  refine (entryMatches_iff _ w).mpr ⟨congrArg (!·) h4, ?_⟩
  cases hw : isLen4 w with
  | true => rw [truncWord_len4 hw]; exact h
  | false =>
    have hm : 0xFFFF &&& mask = mask := hwithin.resolve_left (by simp [h4, hw])
    rw [truncWord_half hw, compressed_lowHalf_eq_and, BitVec.and_assoc, hm]
    exact h

/-- A word with literals that exclude every entry of its class is NoMatch. -/
theorem wordIsNoMatch_of_literals {x : XLen} {w mask value : Word} (h : w &&& mask = value)
    (hx : excludes (referenceRom x) mask value = true) : WordIsNoMatch x w := by
  obtain ⟨hd, hall⟩ := Bool.and_eq_true_iff.mp hx
  exact firstMatch_none_of _ (entryMatches_of_literals hd h) hall

/-- Every word that has the literals of `mask` but not those of `mask'` is NoMatch, where each bit in which the masks differ
would exclude every entry if it were set. -/
theorem wordIsNoMatch_of_literals_ne {x : XLen} {w mask mask' value : Word} (h : w &&& mask = value) (hne : w &&& mask' ≠ value)
    (hx : ∀ i : Fin 32, (mask ^^^ mask').getLsbD i = true →
      excludes (referenceRom x) (mask ||| BitVec.twoPow 32 i) (value ||| BitVec.twoPow 32 i) = true) : WordIsNoMatch x w := by
  obtain ⟨i, hi, hw⟩ := exists_bit_of_literals_ne h hne
  exact wordIsNoMatch_of_literals (literals_or h (literals_of_set_bit hw)) (hx i hi)

/-! ## Longer encodings and the opcodes without an entry (R51, R60) -/

theorem longPrefix_noMatch (x : XLen) (w : Word) (h : w.extractLsb 4 2 = 0b111#3) (h4 : w.extractLsb 1 0 = 0b11#2) :
    WordIsNoMatch x w :=
  wordIsNoMatch_of_literals (literals_or (literals_of_extractLsb h) (literals_of_extractLsb h4)) (by cases x <;> decide +kernel)

theorem opcodeTable_noLongPrefix : ∀ r ∈ opcodeTable,
    ¬ (r.entry.mask.extractLsb 4 2 = 0b111#3 ∧ r.entry.value.extractLsb 4 2 = 0b111#3) := by decide +kernel

theorem mem_opcodeTable_of_mem_referenceRom {x : XLen} {e : Entry} (he : e ∈ referenceRom x) : ∃ r ∈ opcodeTable, r.entry = e := by
  obtain ⟨r, hr, rfl⟩ := List.mem_map.mp he
  exact ⟨r, List.mem_of_mem_filter hr, rfl⟩

/-- The major opcodes of 32-bit words that have no entry (R60). -/
def unlistedOpcodes : List (BitVec 7) :=
  [0b0001011, 0b0101011, 0b1011011, 0b1111011, 0b1010111, 0b1110111, 0b1101011, 0b0011111, 0b0111111, 0b1011111, 0b1111111]

theorem excludes_unlistedOpcode (x : XLen) : ∀ op ∈ unlistedOpcodes,
    excludes (referenceRom x) (fieldMask 6 0) (op.setWidth 32 <<< 0) = true := by cases x <;> decide +kernel

theorem unlistedOpcode_noMatch (x : XLen) (w : Word) (h : w.extractLsb 6 0 ∈ unlistedOpcodes) : WordIsNoMatch x w :=
  wordIsNoMatch_of_literals (literals_of_extractLsb rfl) (excludes_unlistedOpcode x _ h)

/-- Settles O28: the literals of a longer encoding and of each such opcode exclude every entry of the 32-bit class. -/
theorem longPrefixesAndUnlistedOpcodesAreNoMatch : Obligations.LongPrefixesAndUnlistedOpcodesAreNoMatch := by
  refine ⟨fun x w h h4 => ⟨(isLen4_iff w).mpr h4, longPrefix_noMatch x w h h4⟩, fun x e he => ?_, unlistedOpcode_noMatch⟩
  obtain ⟨r, hr, rfl⟩ := mem_opcodeTable_of_mem_referenceRom he
  exact opcodeTable_noLongPrefix r hr

/-! ## The reserved encodings (R64) -/

theorem quadrant0_funct100_noMatch (x : XLen) (w : Word) (hop : w.extractLsb 1 0 = 0b00#2) (h3 : w.extractLsb 15 13 = 0b100#3) :
    WordIsNoMatch x w :=
  wordIsNoMatch_of_literals (literals_or (literals_of_extractLsb hop) (literals_of_extractLsb h3)) (by cases x <;> decide +kernel)

/-- Under bits 12..10 = 111 stand C.SUBW and C.ADDW alone: bit 6 excludes them, and XLEN=32 has neither (R61). -/
theorem compressedArithmetic_noMatch (x : XLen) (w : Word) (hop : w.extractLsb 1 0 = 0b01#2) (h3 : w.extractLsb 15 13 = 0b100#3)
    (h7 : w.extractLsb 12 10 = 0b111#3) (hw : w.getLsbD 6 = true ∨ x = .rv32) : WordIsNoMatch x w := by
  have h := literals_or (literals_or (literals_of_extractLsb hop) (literals_of_extractLsb h3)) (literals_of_extractLsb h7)
  rcases hw with h6 | rfl
  · exact wordIsNoMatch_of_literals (literals_or h (literals_of_set_bit h6)) (by cases x <;> decide +kernel)
  · exact wordIsNoMatch_of_literals h (by decide +kernel)

/-- At XLEN=32 bit 12 is a literal 0 of C.SRLI and C.SRAI; a clear bit 11 leaves out the other funct3-100 rows. -/
theorem compressedRightShift_bit12_noMatch (w : Word) (hop : w.extractLsb 1 0 = 0b01#2) (h3 : w.extractLsb 15 13 = 0b100#3)
    (h12 : w.getLsbD 12 = true) (h11 : w.getLsbD 11 = false) : WordIsNoMatch .rv32 w :=
  wordIsNoMatch_of_literals
    (literals_or (literals_or (literals_of_extractLsb hop) (literals_of_extractLsb h3))
      (literals_or (literals_of_set_bit h12) (literals_of_clear_bit h11)))
    (by decide +kernel)

theorem compressedLeftShift_bit12_noMatch (w : Word) (hop : w.extractLsb 1 0 = 0b10#2) (h3 : w.extractLsb 15 13 = 0b000#3)
    (h12 : w.getLsbD 12 = true) : WordIsNoMatch .rv32 w :=
  wordIsNoMatch_of_literals
    (literals_or (literals_or (literals_of_extractLsb hop) (literals_of_extractLsb h3)) (literals_of_set_bit h12))
    (by decide +kernel)

theorem shift_bit25_noMatch (w : Word)
    (h : w &&& 0xFE00707F = 0x02001013 ∨ w &&& 0xFE00707F = 0x02005013 ∨ w &&& 0xFE00707F = 0x42005013) : WordIsNoMatch .rv32 w := by
  rcases h with h | h | h <;> exact wordIsNoMatch_of_literals h (by decide +kernel)

/-- The rows of LR ask for a zero rs2 field beside the literals of the AMO rows. -/
theorem loadReserved_rs2_noMatch (x : XLen) (w : Word) (h : w &&& 0xF800707F = 0x1000202F ∨ w &&& 0xF800707F = 0x1000302F)
    (hrs2 : w.extractLsb 24 20 ≠ 0#5) : WordIsNoMatch x w := by
  have hne {v : Word} (hv : v.extractLsb 24 20 = 0) : w &&& 0xF9F0707F ≠ v := by
    rintro rfl
    rw [BitVec.extractLsb_and] at hv
    exact hrs2 (BitVec.and_allOnes.symm.trans hv)
  rcases h with h | h <;>
    exact wordIsNoMatch_of_literals_ne h (hne (by decide)) (by cases x <;> decide +kernel)

/-- FENCE.I is a single word. -/
theorem fenceI_field_noMatch (x : XLen) (w : Word) (h : w &&& 0x0000707F = 0x0000100F) (hne : w ≠ 0x0000100F) :
    WordIsNoMatch x w :=
  wordIsNoMatch_of_literals_ne (mask' := BitVec.allOnes 32) h (by rwa [BitVec.and_allOnes]) (by cases x <;> decide +kernel)

/-- Settles O29: a class of words for each row of the rule, and its example words are members of their classes. -/
theorem reservedEncodingsAreNoMatch : Obligations.ReservedEncodingsAreNoMatch :=
  ⟨quadrant0_funct100_noMatch, compressedArithmetic_noMatch, compressedRightShift_bit12_noMatch, compressedLeftShift_bit12_noMatch,
    shift_bit25_noMatch, loadReserved_rs2_noMatch, fenceI_field_noMatch, unlistedOpcode_noMatch,
    quadrant0_funct100_noMatch _ _ (by decide) (by decide),
    compressedRightShift_bit12_noMatch _ (by decide) (by decide) (by decide) (by decide),
    compressedLeftShift_bit12_noMatch _ (by decide) (by decide) (by decide),
    shift_bit25_noMatch _ (.inl (by decide)), fenceI_field_noMatch _ _ (by decide) (by decide)⟩

/-! ## Decoding the word of an instruction (R88, R95) -/

theorem rows_row {x : XLen} {n : Nat} {r : TableRow} (hr : opcodeTable[n]? = some r) (hx : r.admits x = true) :
    (referenceRows x)[romIndex x n]? = some r := by
  rw [rows_split hr hx, romIndex, List.countP_eq_length_filter, List.getElem?_append_right le_rfl, Nat.sub_self]
  rfl

/-- The decoder runs the row at which the matcher hits, on the fields that the row's tag extracts (R88, R95). -/
theorem decodeWord_of_firstMatch {x : XLen} {w : Word} {k : Nat} {r : TableRow} (h : firstMatch (referenceRom x) w = some k)
    (hr : (referenceRows x)[k]? = some r) : decodeWord x w = .ok (r.make (tagFields r.tag (truncWord w))) := by
  have hfind : (referenceRows x).find? (fun r => entryMatches r.entry w) = some r := by
    obtain ⟨hk, rfl⟩ := List.getElem?_eq_some_iff.mp hr
    rw [referenceRom, firstMatch, List.findIdx?_map, List.findIdx?_eq_some_iff_getElem] at h
    obtain ⟨_, hm, hbefore⟩ := h
    exact List.find?_eq_some_iff_getElem.mpr ⟨hm, k, hk, rfl, fun j hj => by simpa using hbefore j hj⟩
  rw [decodeWord, hfind]

/-- A well-formed instruction of the catalog decodes from its own word as itself. -/
theorem decodeWord_encode {x : XLen} {i : Instr} (h : WellFormed i = true) (hx : i.presentIn x = true) :
    decodeWord x (encode i) = .ok i := by
  obtain ⟨r, hr, hc, hmake⟩ := row_of i h
  have hrx : r.admits x = true := by simpa [Instr.presentIn, hr] using hx
  rw [decodeWord_of_firstMatch (firstMatch_encode h hx) (rows_row hr hrx), hc.whole, hc.fields, hmake]

/-- A word that a row of the catalog matches, where no row before it shares a word with it, decodes by that row. -/
theorem decodeWord_of_row {x : XLen} {n : Nat} {r : TableRow} {w : Word} (hr : opcodeTable[n]? = some r) (hx : r.admits x = true)
    (hn : expectedColliders n = []) (hm : entryMatches r.entry w = true) :
    decodeWord x w = .ok (r.make (tagFields r.tag (truncWord w))) := by
  refine decodeWord_of_firstMatch (firstMatch_row hr hx hm fun j a hj ha hax => ?_) (rows_row hr hx)
  refine Bool.eq_false_iff.mpr fun hma => ?_
  exact absurd (match_mem ha hr hax hx hj hma hm) (hn ▸ List.not_mem_nil)

/-- What R63 asks of an instruction of the catalog: its word decodes as the instruction itself. -/
theorem decodesAsItself {x : XLen} {i : Instr} (h : WellFormed i = true) (hx : i.presentIn x = true := by rfl) :
    (decodeWord x (encode i)).toOption = some i := by rw [decodeWord_encode h hx]; rfl

theorem decodesAsItself_both {x : XLen} (hx : x = .rv32 ∨ x = .rv64) {i : Instr} (h : WellFormed i = true)
    (h32 : i.presentIn .rv32 = true := by rfl) (h64 : i.presentIn .rv64 = true := by rfl) :
    (decodeWord x (encode i)).toOption = some i := by
  rcases hx with rfl | rfl
  · exact decodesAsItself h h32
  · exact decodesAsItself h h64

/-- The word of a well-formed instruction of the catalog is that instruction, at its row's place. -/
theorem wordIs_of_encode {x : XLen} {i : Instr} {w : Word} {k : Nat} (h : WellFormed i = true) (hx : i.presentIn x = true)
    (hw : encode i = w) (hk : romIndex x i.rowNumber = k) : WordIs x w k i := by
  subst hw hk
  exact ⟨decodesAsItself h hx, firstMatch_encode h hx⟩

/-! ## The encodings that the manual reserves or calls hints (R63) -/

theorem wellFormed_cAddi {rd : Reg} {imm : Word} (h : fitsSext 6 imm = true) (hne : rd ≠ 0 ∨ imm ≠ 0) :
    WellFormed (.cAddi rd imm) = true :=
  and_intro h (by simpa using hne)

/-- The row of FENCE, number 37 of the table. -/
def fenceRow : TableRow := row32 0x0000000F 0x0000707F .i fun f => .fence f.rd f.rs1 f.imm

theorem opcodeTable_fenceRow : opcodeTable[37]? = some fenceRow := rfl

/-- FENCE keeps fm, pred and succ as one immediate, so that every word with the row's literals is a FENCE. -/
theorem fence_decodes {x : XLen} (hx : x = .rv32 ∨ x = .rv64) {w : Word} (h : w &&& 0x0000707F = 0x0000000F) :
    (decodeWord x w).toOption = some (.fence (w.extractLsb 11 7) (w.extractLsb 19 15) (sext 12 (w.extractLsb 31 20))) := by
  have hadmits : fenceRow.admits x = true := by rcases hx with rfl | rfl <;> rfl
  have hmatch : entryMatches fenceRow.entry w = true := entryMatches_of_literals rfl h
  have hlen4 : isLen4 w = true := (isLen4_of_literals rfl h).symm
  rw [decodeWord_of_row opcodeTable_fenceRow hadmits rfl hmatch, truncWord_len4 hlen4]
  rfl

/-- Settles O30: each term of the table is well-formed and in its catalog, and so decodes from its own word; FENCE is given by its
words instead. -/
theorem reservedAndHintEncodingsDecodeAsNamed : Obligations.ReservedAndHintEncodingsDecodeAsNamed := by
  refine ⟨wordIs_of_encode rfl rfl (by decide) (by decide +kernel), wordIs_of_encode rfl rfl (by decide) (by decide +kernel),
    fun x hx => ⟨fun rd hrd => ?cAddi4spn, by decide, ?cAddi16sp, fun rd hrd => ?cLui, fun imm h h0 => ?cLuiRd0,
      fun imm h h0 => ?cLwsp, by decide, ?cJr, fun imm h hne => ?cAddiRd0, fun rd hne => ?cAddi, fun imm h => ?cLi,
      fun rs2 hne => ⟨?cMv, ?cAdd⟩, fun rs1 imm h => ?opImm, fun rs1 rs2 => ?op, fun w => fence_decodes hx,
      fun rd rs1 rs2 rs3 rm _ => ?rounding⟩,
    fun x rd rs1 rm hx _ => ?rounding64, ?shifts32, ?rv64⟩
  case cAddi4spn => exact decodesAsItself_both hx (and_intro (and_intro hrd rfl) rfl)
  case cAddi16sp => exact decodesAsItself_both hx rfl
  case cLui => exact decodesAsItself_both hx (and_intro rfl (bne_iff_ne.mpr hrd))
  case cLuiRd0 => exact decodesAsItself_both hx (and_intro (and_intro h h0) rfl)
  case cLwsp => exact decodesAsItself_both hx (and_intro h h0)
  case cJr => exact decodesAsItself_both hx rfl
  case cAddiRd0 => exact decodesAsItself_both hx (wellFormed_cAddi h (.inr hne))
  case cAddi => exact decodesAsItself_both hx (wellFormed_cAddi rfl (.inl hne))
  case cLi => exact decodesAsItself_both hx h
  case cMv => exact decodesAsItself_both hx (bne_iff_ne.mpr hne)
  case cAdd => exact decodesAsItself_both hx (bne_iff_ne.mpr hne)
  case opImm => and_intros <;> exact decodesAsItself_both hx h
  case op => and_intros <;> exact decodesAsItself_both hx rfl
  case rounding => and_intros <;> exact decodesAsItself_both hx rfl
  case rounding64 => subst hx; and_intros <;> exact decodesAsItself rfl
  case shifts32 =>
    rintro x rfl
    refine ⟨fun rs1 shamt h => ?_, fun shamt h => decodesAsItself h, fun rd => decodesAsItself rfl, fun rd hrd => ?_⟩
    · and_intros <;> exact decodesAsItself h
    · and_intros <;> exact decodesAsItself (and_intro hrd rfl)
  case rv64 =>
    rintro x rfl
    refine ⟨fun rs1 shamt => ?_, fun shamt => decodesAsItself rfl, fun rd => decodesAsItself rfl, fun rd hrd => ?_,
      fun imm h h0 => decodesAsItself (and_intro h h0), fun imm h => decodesAsItself h⟩
    · and_intros <;> exact decodesAsItself rfl
    · and_intros <;> exact decodesAsItself hrd

end Sys2Proof.Proofs
end

section
/-! # O5, O16, O17, O60, O19, O20: the catalog compiler

A build succeeds exactly when every definition compiles, and its diagnostics are those of its ROM (`Laws.build_ok_iff`). Two entries
overlap exactly when their literals agree wherever both have one, and then the two values together are a word of both. So every two
entries that match a common word are reported as a pair, and the pairs that a reference ROM reports (R81) are all that first match has
to decide in it (R82). -/

namespace Sys2Proof.Proofs

open Sys2Proof.Machine Sys2Proof.Laws

/-! ## Composition and failure (R75, R76) -/

/-- All results of a list are values exactly when each is. -/
theorem exists_map_eq_map_ok_iff {α β ε : Type} {f : α → Except ε β} {xs : List α} :
    (∃ l : List β, xs.map f = l.map Except.ok) ↔ ∀ x ∈ xs, ∃ e, f x = .ok e :=
  calc (∃ l : List β, xs.map f = l.map Except.ok)
    _ ↔ xs.map f ∈ Set.range (List.map Except.ok) := by simp only [Set.mem_range, eq_comm]
    _ ↔ ∀ x ∈ xs, ∃ e, f x = .ok e := by
      rw [Set.range_list_map]
      simp only [Set.mem_ofPred_eq, List.forall_mem_map, Set.mem_range, eq_comm]

/-- A build succeeds exactly with the compiled definitions in order, the 32-bit ones first. -/
theorem build_ok_iff_map_compile (ms : List CatalogModule) (c : Catalog) : build ms = .ok c ↔
    ∃ l : List (Entry × String), (ms.flatMap CatalogModule.defs).map compile = l.map Except.ok ∧
      c.entries = (l.filter (fun e => !e.1.w16) ++ l.filter (fun e => e.1.w16)).map Prod.fst ∧
      c.names = (l.filter (fun e => !e.1.w16) ++ l.filter (fun e => e.1.w16)).map Prod.snd ∧
      c.extSet = extensionSet ms ∧ c.diagnostics = diagnostics c.entries := by
  simp only [build_ok_iff, compileModules_ok_iff]

theorem width_and_moduleName_of_mem_defs {m : CatalogModule} {d : Definition} (h : d ∈ m.defs) :
    d.width = m.width ∧ d.moduleName = m.name := by
  obtain ⟨line, -, rfl⟩ := List.mem_map.mp h
  exact ⟨rfl, rfl⟩

/-- Settles O16: the compiler's own order, and that a module makes its definitions. -/
theorem compositionOrder : Obligations.CompositionOrder :=
  ⟨build_ok_iff_map_compile, fun _ _ => width_and_moduleName_of_mem_defs⟩

/-- A build is all or nothing. -/
theorem exists_build_ok_iff (ms : List CatalogModule) :
    (∃ c, build ms = .ok c) ↔ ∀ m ∈ ms, ∀ d ∈ m.defs, ∃ e, compile d = .ok e :=
  calc (∃ c, build ms = .ok c)
    _ ↔ ∃ l : List (Entry × String), (ms.flatMap CatalogModule.defs).map compile = l.map Except.ok := by
      constructor
      · rintro ⟨c, hc⟩
        obtain ⟨l, hl, -⟩ := (build_ok_iff_map_compile ms c).mp hc
        exact ⟨l, hl⟩
      · rintro ⟨l, hl⟩
        exact ⟨⟨_, _, _, diagnostics _⟩, (build_ok_iff_map_compile ms _).mpr ⟨l, hl, rfl, rfl, rfl, rfl⟩⟩
    _ ↔ ∀ d ∈ ms.flatMap CatalogModule.defs, ∃ e, compile d = .ok e := exists_map_eq_map_ok_iff
    _ ↔ ∀ m ∈ ms, ∀ d ∈ m.defs, ∃ e, compile d = .ok e := List.forall_mem_flatMap

theorem build_of_compileModules_error {ms : List CatalogModule} {x : Malformed} (h : compileModules ms = .error x) :
    build ms = .error x := by
  rw [build, h]

/-- Settles O17: the failure of a definition is that of its module, and the failure of a module is that of the build. -/
theorem firstFailureStopsTheBuild : Obligations.FirstFailureStopsTheBuild := by
  refine ⟨fun pre post m a b d r hpre hdefs ha hd => ?_, exists_build_ok_iff⟩
  have hm : compileFrom m 0 m.defs = .error ⟨m.name, a.length, d.layout, r⟩ := by
    rw [hdefs, compileFrom_error m a 0 d b r ha hd, Nat.zero_add]
  exact build_of_compileModules_error (compileModules_error pre m post _ hpre hm)

/-! ## Overlapping and shadowing entries (R79) -/

theorem overlaps_and_shadows_iff {a b : Entry} : overlaps a b = true ∧ shadows a b = true ↔
    (a.value ^^^ b.value) &&& a.mask &&& b.mask = 0 ∧ a.mask &&& ~~~b.mask = 0 := by
  simp [overlaps, shadows]

theorem overlaps_and_not_shadows_iff {a b : Entry} : overlaps a b = true ∧ shadows a b = false ↔
    (a.value ^^^ b.value) &&& a.mask &&& b.mask = 0 ∧ a.mask &&& ~~~b.mask ≠ 0 := by
  simp +contextual [overlaps, shadows]

/-- Where the literals agree, the two values together carry the literals of each. -/
theorem value_or_value_and_mask {a b : Entry} (ha : a.value &&& ~~~a.mask = 0) (hb : b.value &&& ~~~b.mask = 0)
    (h : (a.value ^^^ b.value) &&& a.mask &&& b.mask = 0) : (a.value ||| b.value) &&& a.mask = a.value := by
  apply BitVec.eq_of_getLsbD_eq
  intro i hi
  have ha := getLsbD_of_eq ha i
  have hb := getLsbD_of_eq hb i
  have h := getLsbD_of_eq h i
  simp only [BitVec.getLsbD_and, BitVec.getLsbD_or, BitVec.getLsbD_xor, BitVec.getLsbD_not, hi] at ha hb h ⊢
  grind

/-- A word's literals agree with themselves. -/
theorem value_xor_value_and_masks {a b : Entry} {w : Word} (ha : w &&& a.mask = a.value) (hb : w &&& b.mask = b.value) :
    (a.value ^^^ b.value) &&& a.mask &&& b.mask = 0 := by
  rw [← ha, ← hb]
  apply BitVec.eq_of_getLsbD_eq
  intro i _
  simp only [BitVec.getLsbD_and, BitVec.getLsbD_xor]
  grind

theorem overlap_iff_exists_word {a b : Entry} (ha : a.value &&& ~~~a.mask = 0) (hb : b.value &&& ~~~b.mask = 0) :
    (a.value ^^^ b.value) &&& a.mask &&& b.mask = 0 ↔ ∃ w : Word, w &&& a.mask = a.value ∧ w &&& b.mask = b.value := by
  constructor
  · intro h
    have h' : (b.value ^^^ a.value) &&& b.mask &&& a.mask = 0 := by
      rwa [BitVec.xor_comm, BitVec.and_assoc, BitVec.and_comm b.mask, ← BitVec.and_assoc]
    exact ⟨a.value ||| b.value, value_or_value_and_mask ha hb h, BitVec.or_comm .. ▸ value_or_value_and_mask hb ha h'⟩
  · rintro ⟨w, hwa, hwb⟩
    exact value_xor_value_and_masks hwa hwb

/-- An entry whose literals are all literals of a second one takes every word of it. -/
theorem literals_of_shadow {a b : Entry} {w : Word} (ho : (a.value ^^^ b.value) &&& a.mask &&& b.mask = 0)
    (hm : a.mask &&& ~~~b.mask = 0) (ha : a.value &&& ~~~a.mask = 0) (hw : w &&& b.mask = b.value) : w &&& a.mask = a.value := by
  rw [← hw] at ho
  apply BitVec.eq_of_getLsbD_eq
  intro i hi
  have ho := getLsbD_of_eq ho i
  have hm := getLsbD_of_eq hm i
  have ha := getLsbD_of_eq ha i
  simp only [BitVec.getLsbD_and, BitVec.getLsbD_xor, BitVec.getLsbD_not, hi] at ho hm ha ⊢
  grind

/-! ## The diagnostics of a ROM (R79, R80) -/

/-- Everything that is reported: the overlapping pairs of one class, each under one of two names, and the dead entries. -/
theorem mem_diagnostics_iff {rom : List Entry} {d : Diagnostic} : d ∈ diagnostics rom ↔
    (∃ i j a b, i < j ∧ rom[i]? = some a ∧ rom[j]? = some b ∧ a.w16 = b.w16 ∧ overlaps a b = true ∧
      d = if shadows a b then .fullshadow i j else .overlap i j) ∨
    ∃ i e, rom[i]? = some e ∧ deadEntry e = true ∧ d = .dead i := by
  simp only [diagnostics, List.mem_append, mem_overlapDiagnostics, mem_deadDiagnostics, Nat.zero_add]

theorem overlap_mem_diagnostics {rom : List Entry} {i j : Nat} : .overlap i j ∈ diagnostics rom ↔
    i < j ∧ ∃ a b, rom[i]? = some a ∧ rom[j]? = some b ∧ a.w16 = b.w16 ∧
      (a.value ^^^ b.value) &&& a.mask &&& b.mask = 0 ∧ a.mask &&& ~~~b.mask ≠ 0 := by
  simp [mem_diagnostics_iff, eq_ite_iff, overlaps_and_not_shadows_iff]

theorem fullshadow_mem_diagnostics {rom : List Entry} {i j : Nat} : .fullshadow i j ∈ diagnostics rom ↔
    i < j ∧ ∃ a b, rom[i]? = some a ∧ rom[j]? = some b ∧ a.w16 = b.w16 ∧
      (a.value ^^^ b.value) &&& a.mask &&& b.mask = 0 ∧ a.mask &&& ~~~b.mask = 0 := by
  simp [mem_diagnostics_iff, eq_ite_iff, overlaps_and_shadows_iff]

theorem dead_mem_diagnostics {rom : List Entry} {i : Nat} :
    .dead i ∈ diagnostics rom ↔ ∃ e, rom[i]? = some e ∧ deadEntry e = true := by
  simp [mem_diagnostics_iff, eq_ite_iff]

theorem deadEntry_iff {e : Entry} : deadEntry e = true ↔
    e.w16 = false ∧ e.mask.extractLsb 1 0 &&& ~~~(e.value.extractLsb 1 0) ≠ 0 ∨
      e.w16 = true ∧ e.mask.extractLsb 1 0 = 0b11#2 ∧ e.value.extractLsb 1 0 = 0b11#2 := by
  unfold deadEntry
  cases e.w16 <;> simp

/-- The low bits of a word are 11 exactly when it is a 32-bit one (R85), and a dead entry has a literal that says otherwise. -/
theorem entryMatches_of_dead {e : Entry} (h : deadEntry e = true) (w : Word) : entryMatches e w = false := by
  refine Bool.eq_false_iff.mpr fun hm => ?_
  obtain ⟨hclass, hlit⟩ := (entryMatches_iff e w).mp hm
  have hlow : (truncWord w).extractLsb 1 0 &&& e.mask.extractLsb 1 0 = e.value.extractLsb 1 0 := by
    rw [← BitVec.extractLsb_and, hlit]
  rcases deadEntry_iff.mp h with ⟨h16, hbits⟩ | ⟨h16, hmask, hvalue⟩
  · have h4 : (truncWord w).extractLsb 1 0 = BitVec.allOnes 2 := (isLen4_iff _).mp (by simpa [h16] using hclass)
    rw [h4, BitVec.allOnes_and] at hlow
    exact hbits (by rw [hlow, BitVec.and_not_self])
  · have h4 : isLen4 w = true := by
      rw [← isLen4_truncWord, ← isLen4_of_literals hmask hlit]
      exact (isLen4_iff e.value).mpr hvalue
    simp [h16, h4] at hclass

/-- No word selects an entry that no word matches. -/
theorem firstMatch_ne_of_dead {rom : List Entry} {i : Nat} (h : .dead i ∈ diagnostics rom) (w : Word) :
    firstMatch rom w ≠ some i := by
  intro hf
  obtain ⟨e, he, hdead⟩ := dead_mem_diagnostics.mp h
  obtain ⟨e', he', hm, -⟩ := firstMatch_eq_some_iff.mp hf
  obtain rfl : e = e' := Option.some.inj (he.symm.trans he')
  rw [entryMatches_of_dead hdead w] at hm
  cases hm

/-- A word of the later entry of a shadow is one of the earlier, which is found first. -/
theorem firstMatch_ne_of_fullshadow {rom : List Entry} {i j : Nat} (hrom : ∀ e ∈ rom, e.value &&& ~~~e.mask = 0)
    (h : .fullshadow i j ∈ diagnostics rom) (w : Word) : firstMatch rom w ≠ some j := by
  intro hf
  obtain ⟨hij, a, b, ha, hb, hw, ho, hm⟩ := fullshadow_mem_diagnostics.mp h
  obtain ⟨b', hb', hmatch, hbefore⟩ := firstMatch_eq_some_iff.mp hf
  obtain rfl : b = b' := Option.some.inj (hb.symm.trans hb')
  obtain ⟨hclass, hlit⟩ := (entryMatches_iff b w).mp hmatch
  have hma : entryMatches a w = true :=
    (entryMatches_iff a w).mpr ⟨hw.trans hclass, literals_of_shadow ho hm (hrom a (List.mem_of_getElem? ha)) hlit⟩
  rw [hbefore i hij a ha] at hma
  cases hma

theorem value_in_mask_of_build {ms : List CatalogModule} {c : Catalog} (h : build ms = .ok c) :
    ∀ e ∈ c.entries, e.value &&& ~~~e.mask = 0 := by
  intro e he
  obtain ⟨d, -, n, hd⟩ := compile_of_mem_build h he
  obtain ⟨hv, -, -⟩ := compile_entry hd
  exact hv

theorem diagnostics_of_build {ms : List CatalogModule} {c : Catalog} (h : build ms = .ok c) :
    c.diagnostics = diagnostics c.entries := by
  obtain ⟨_, -, -, -, -, hd⟩ := (build_ok_iff ms c).mp h
  exact hd

/-- The ROM of a build is the compiled definitions in the order of composition. -/
theorem entries_of_build {ms : List CatalogModule} {c : Catalog} {l : List (Entry × String)} (h : build ms = .ok c)
    (hl : (ms.flatMap CatalogModule.defs).map compile = l.map Except.ok) :
    c.entries = (l.filter (fun e => !e.1.w16) ++ l.filter (fun e => e.1.w16)).map Prod.fst := by
  obtain ⟨l', hl', hentries, -⟩ := (build_ok_iff ms c).mp h
  obtain rfl : l' = l := Except.ok.inj (hl'.symm.trans ((compileModules_ok_iff ms l).mpr hl))
  exact hentries

/-- Settles O60: the diagnostics are those of the ROM, which the compiled definitions alone make. -/
theorem buildReportsOverlapsAndDeadEntries : Obligations.BuildReportsOverlapsAndDeadEntries := by
  refine ⟨fun ms c h => ?_, fun _ _ => overlap_iff_exists_word, fun _ _ ho hm ha _ => literals_of_shadow ho hm ha,
    exists_build_ok_iff, fun _ _ _ => entries_of_build⟩
  rw [diagnostics_of_build h]
  refine ⟨fun i j => overlap_mem_diagnostics, fun i j => fullshadow_mem_diagnostics, fun i => ?_,
    fun i j => firstMatch_ne_of_fullshadow (value_in_mask_of_build h), fun i => firstMatch_ne_of_dead⟩
  simp only [dead_mem_diagnostics, deadEntry_iff]

/-! ## The reference catalogs (R81) -/

/-- The overlaps of R81. -/
def intendedDiagnostics : XLen → List Diagnostic
  | .rv32 => [.overlap 129 130, .overlap 133 134, .overlap 149 152, .overlap 149 153, .overlap 150 151, .overlap 152 153]
  | .rv64 => [.overlap 167 168, .overlap 171 172, .overlap 189 192, .overlap 189 193, .overlap 190 191, .overlap 192 193]
  | .rv128 => []

theorem diagnostics_referenceRom (x : XLen) : diagnostics (referenceRom x) = intendedDiagnostics x := by
  cases x <;> decide +kernel

/-- The modules of the reference composition compile to the reference ROM. -/
theorem build_referenceModules_entries (x : XLen) :
    (build (referenceModules x)).map Catalog.entries = .ok (referenceRom x) := by cases x <;> decide +kernel

theorem exists_build_referenceModules (x : XLen) :
    ∃ c, build (referenceModules x) = .ok c ∧ c.diagnostics = intendedDiagnostics x := by
  have he := build_referenceModules_entries x
  cases hb : build (referenceModules x) with
  | error m => rw [hb] at he; cases he
  | ok c =>
    rw [hb] at he
    refine ⟨c, rfl, ?_⟩
    rw [diagnostics_of_build hb, Except.ok.inj he, diagnostics_referenceRom]

/-- The 16-bit word of an entry with every operand bit set. -/
def fullWord (e : Entry) : Word := e.value ||| (~~~e.mask &&& 0xFFFF)

/-- The earlier entries of R81 want an operand of zeros, or rd = 2, so that none of them takes the word. -/
theorem firstMatch_fullWord_rv32 : ∀ j ∈ List.range' 122 35,
    (referenceRom .rv32)[j]?.bind (firstMatch (referenceRom .rv32) <| fullWord ·) = some j := by decide +kernel

theorem firstMatch_fullWord_rv64 : ∀ j ∈ List.range' 160 37,
    (referenceRom .rv64)[j]?.bind (firstMatch (referenceRom .rv64) <| fullWord ·) = some j := by decide +kernel

theorem exists_firstMatch_of_bind {rom : List Entry} {j : Nat} (h : rom[j]?.bind (firstMatch rom <| fullWord ·) = some j) :
    ∃ w, firstMatch rom w = some j := by
  obtain ⟨e, -, he⟩ := Option.bind_eq_some_iff.mp h
  exact ⟨fullWord e, he⟩

/-- Settles O20: the build makes the reference ROM, whose pairs are evaluated; the word of each 16-bit entry is its own. -/
theorem referenceDiagnostics : Obligations.ReferenceDiagnostics :=
  ⟨exists_build_referenceModules .rv32, exists_build_referenceModules .rv64,
    fun j h h' => exists_firstMatch_of_bind (firstMatch_fullWord_rv32 j (List.mem_range'_1.mpr ⟨h, h'⟩)),
    fun j h h' => exists_firstMatch_of_bind (firstMatch_fullWord_rv64 j (List.mem_range'_1.mpr ⟨h, h'⟩))⟩

/-! ## No shadowing (R82) -/

theorem firstMatch_of_no_earlier {rom : List Entry} {j : Nat} {e : Entry} {w : Word} (he : rom[j]? = some e)
    (hlit : truncWord w &&& e.mask = e.value) (hclass : e.w16 = !isLen4 w)
    (hno : ∀ i < j, ∀ a, rom[i]? = some a → a.w16 = e.w16 → truncWord w &&& a.mask ≠ a.value) : firstMatch rom w = some j := by
  refine firstMatch_eq_some_iff.mpr ⟨e, he, (entryMatches_iff e w).mpr ⟨hclass, hlit⟩, fun i hi a ha => ?_⟩
  refine Bool.eq_false_iff.mpr fun hm => ?_
  obtain ⟨haclass, halit⟩ := (entryMatches_iff a w).mp hm
  exact hno i hi a ha (haclass.trans hclass.symm) halit

/-- Two entries of a class that match one word are reported as a pair. -/
theorem reported_of_common_word {rom : List Entry} {i j : Nat} {a b : Entry} {w : Word} (hij : i < j) (ha : rom[i]? = some a)
    (hb : rom[j]? = some b) (hclass : a.w16 = b.w16) (hwa : w &&& a.mask = a.value) (hwb : w &&& b.mask = b.value) :
    .overlap i j ∈ diagnostics rom ∨ .fullshadow i j ∈ diagnostics rom := by
  have ho := value_xor_value_and_masks hwa hwb
  by_cases hm : a.mask &&& ~~~b.mask = 0
  · exact .inr (fullshadow_mem_diagnostics.mpr ⟨hij, a, b, ha, hb, hclass, ho, hm⟩)
  · exact .inl (overlap_mem_diagnostics.mpr ⟨hij, a, b, ha, hb, hclass, ho, hm⟩)

/-- The later entries of R81. -/
def laterIndices (x : XLen) : List Nat := if x = .rv32 then [130, 134, 151, 152, 153] else [168, 172, 191, 192, 193]

theorem mem_laterIndices_of_reported {x : XLen} {i j : Nat}
    (h : .overlap i j ∈ intendedDiagnostics x ∨ .fullshadow i j ∈ intendedDiagnostics x) : j ∈ laterIndices x := by
  cases x <;> grind [intendedDiagnostics, laterIndices]

/-- Settles O5: first match decides, and in a reference catalog an earlier entry that takes the word too would be reported. -/
theorem noShadowing : Obligations.NoShadowing := by
  refine ⟨fun rom j e w => firstMatch_of_no_earlier, fun x j e w he hlit hclass hj => ?_⟩
  refine firstMatch_of_no_earlier he hlit hclass fun i hi a ha haclass halit => hj ?_
  have h := reported_of_common_word hi ha he haclass halit hlit
  rw [diagnostics_referenceRom] at h
  exact mem_laterIndices_of_reported h

/-! ## The worked example (R84) -/

/-- The tokens of the BEQ layout with their widths. -/
def beqTokens : List (Token × Nat) := [
  (.field "imm".toList false (some [(12, 12), (10, 5)]), 7), (.field "rs2".toList false none, 5),
  (.field "rs1".toList false none, 5), (.literal [false, false, false], 3),
  (.field "imm".toList false (some [(4, 1), (11, 11)]), 5), (.literal [true, true, false, false, false, true, true], 7)]

theorem checkTokens_beq :
    checkTokens ((splitLayout "imm[12|10:5] rs2 rs1 000 imm[4:1|11] 1100011 BEQ").dropLast) = .ok beqTokens := by
  decide +kernel

/-- Settles O19, by running the compiler. -/
theorem beqLayoutCompiles : Obligations.BeqLayoutCompiles :=
  ⟨⟨beqTokens, checkTokens_beq, rfl⟩, by decide +kernel, by decide, by decide +kernel, by decide +kernel⟩

end Sys2Proof.Proofs
end

section
/-! # O2, O3, O4, O6, O7, O25, O26, O27: the matcher

The first match of a word is the least index whose comparator is set, so the linear scan of the word's width class finds the entry at
that index (R88, R90), and the decoder the row there. A step is a clock edge (`Laws.step_eq`), and all that an enabled edge takes from
`in_word` is the matcher's result, which depends on the truncated word alone (R86, R91, R92). -/

namespace Sys2Proof.Proofs

open Sys2Proof.Machine Sys2Proof.Laws

/-! ## The two stages after an edge (R92, R96) -/

theorem edgeWith_s1 (w : Word) (s : State) : (edgeWith w s).s1 =
    if s.ports.rst then Stage1.reset else if s.ports.en then matchSlot s.rom s.ports.inValid w else s.s1 := by
  rcases edgeWith_cases w s with ⟨hr, e⟩ | ⟨hr, he, e⟩ | ⟨hr, he, e⟩
  · rw [e, if_pos hr, resetEdge_s1]
  · rw [e, hr, he]; rfl
  · rw [e, hr, he]; rfl

theorem edgeWith_out (w : Word) (s : State) : (edgeWith w s).out =
    if s.ports.rst then Stage2.reset else if s.ports.en then extractSlot s.s1 else s.out := by
  rcases edgeWith_cases w s with ⟨hr, e⟩ | ⟨hr, he, e⟩ | ⟨hr, he, e⟩
  · rw [e, if_pos hr, resetEdge_out]
  · rw [e, hr, he]; rfl
  · rw [e, hr, he]; rfl

/-- Settles O2: a step is a clock edge, and the move of the ports after it writes no register. -/
theorem stageRegistersUpdate : Obligations.StageRegistersUpdate := fun s =>
  ⟨_, step_eq s, (nextPorts_s1 _).trans (edgeWith_s1 _ s), (nextPorts_out _).trans (edgeWith_out _ s)⟩

/-! ## The comparators and the first match (R87, R88, R89) -/

/-- Comparator `i` of the array is set for the word. -/
def ComparatorSet (rom : List Entry) (w : Word) (i : Nat) : Prop :=
  ∃ e, rom[i]? = some e ∧ e.w16 = !isLen4 w ∧ truncWord w &&& e.mask = e.value

theorem comparatorSet_iff {rom : List Entry} {w : Word} {i : Nat} :
    ComparatorSet rom w i ↔ ∃ e, rom[i]? = some e ∧ entryMatches e w = true := by
  simp only [ComparatorSet, entryMatches_iff]

theorem not_comparatorSet_iff {rom : List Entry} {w : Word} {i : Nat} :
    ¬ ComparatorSet rom w i ↔ ∀ e, rom[i]? = some e → entryMatches e w = false := by
  simp only [comparatorSet_iff, not_exists, not_and, Bool.not_eq_true]

theorem firstMatch_eq_some_iff_least {rom : List Entry} {w : Word} {k : Nat} :
    firstMatch rom w = some k ↔ ComparatorSet rom w k ∧ ∀ j < k, ¬ ComparatorSet rom w j := by
  simp only [firstMatch_eq_some_iff, not_comparatorSet_iff]
  simp only [comparatorSet_iff, ← and_assoc, exists_and_right]

theorem matchHit_iff_comparatorSet {rom : List Entry} {w : Word} : matchHit rom w = true ↔ ∃ i, ComparatorSet rom w i := by
  simp only [matchHit, List.any_eq_true, List.mem_iff_getElem?, comparatorSet_iff]
  exact ⟨fun ⟨e, ⟨i, hi⟩, he⟩ => ⟨i, e, hi, he⟩, fun ⟨i, e, hi, he⟩ => ⟨e, ⟨i, hi⟩, he⟩⟩

theorem matchHit_eq_false_iff {rom : List Entry} {w : Word} : matchHit rom w = false ↔ firstMatch rom w = none := by
  rw [matchHit_eq, Option.isSome_eq_false_iff, Option.isNone_iff_eq_none]

/-- On a hit the index is the first match. -/
theorem firstMatch_of_hit {rom : List Entry} {w : Word} (h : matchHit rom w = true) :
    firstMatch rom w = some (matchIndex rom w) := by
  rw [matchHit_eq] at h
  obtain ⟨k, hk⟩ := Option.isSome_iff_exists.mp h
  rw [matchIndex, hk]
  rfl

theorem matchIndex_eq_iff {rom : List Entry} {w : Word} (h : matchHit rom w = true) (k : Nat) :
    matchIndex rom w = k ↔ ComparatorSet rom w k ∧ ∀ j < k, ¬ ComparatorSet rom w j := by
  rw [← firstMatch_eq_some_iff_least, firstMatch_of_hit h, Option.some_inj]

theorem matchFmt_of_firstMatch {rom : List Entry} {w : Word} {k : Nat} {e : Entry} (h : firstMatch rom w = some k)
    (he : rom[k]? = some e) : matchFmt rom w = e.fmt :=
  congrArg Stage1.fmt (matchSlot_hit_of false h he)

theorem exists_entry_of_hit {rom : List Entry} {w : Word} (h : matchHit rom w = true) :
    ∃ e, rom[matchIndex rom w]? = some e ∧ matchFmt rom w = e.fmt := by
  obtain ⟨e, he, -⟩ := firstMatch_eq_some_iff.mp (firstMatch_of_hit h)
  exact ⟨e, he, matchFmt_of_firstMatch (firstMatch_of_hit h) he⟩

theorem matchIndex_of_no_hit {rom : List Entry} {w : Word} (h : matchHit rom w = false) : matchIndex rom w = 0 :=
  congrArg Stage1.index (matchSlot_miss_of false (matchHit_eq_false_iff.mp h))

theorem matchFmt_of_no_hit {rom : List Entry} {w : Word} (h : matchHit rom w = false) : matchFmt rom w = 0 :=
  congrArg Stage1.fmt (matchSlot_miss_of false (matchHit_eq_false_iff.mp h))

/-- Settles O3: the obligation's comparators are `ComparatorSet`, and the first match is the least that is set. -/
theorem matcherSelectsFirstMatch : Obligations.MatcherSelectsFirstMatch := fun _ _ =>
  ⟨matchHit_iff_comparatorSet, matchIndex_eq_iff, exists_entry_of_hit,
    fun h => ⟨matchIndex_of_no_hit h, matchFmt_of_no_hit h⟩, rfl⟩

/-! ## The linear scan (R90) -/

/-- Scanning the catalog of the word's width class is scanning the whole ROM with the comparators, which test the class too. -/
theorem lookupScan_eq_find? (rom : List Entry) (w : Word) : lookupScan rom w = rom.find? (entryMatches · w) := by
  simp only [lookupScan, List.find?_filter, entryMatches, Bool.decide_and, Bool.decide_eq_true]

theorem lookupScan_eq_none_iff {rom : List Entry} {w : Word} : lookupScan rom w = none ↔ firstMatch rom w = none := by
  simp only [lookupScan_eq_find?, List.find?_eq_none, Bool.not_eq_true, firstMatch_eq_none_iff]

theorem lookupScan_of_firstMatch {rom : List Entry} {w : Word} {k : Nat} (h : firstMatch rom w = some k) :
    ∃ e, rom[k]? = some e ∧ lookupScan rom w = some e := by
  obtain ⟨e, he, hm, hbefore⟩ := firstMatch_eq_some_iff.mp h
  obtain ⟨hk, hek⟩ := List.getElem?_eq_some_iff.mp he
  refine ⟨e, he, ?_⟩
  rw [lookupScan_eq_find?]
  refine List.find?_eq_some_iff_getElem.mpr ⟨hm, k, hk, hek, fun j hj => ?_⟩
  rw [hbefore j hj _ (List.getElem?_eq_getElem _), Bool.not_false]

/-- Settles O4: the scan finds nothing exactly when no comparator is set, and the entry at the first match otherwise. -/
theorem matcherAgreesWithLinearScan : Obligations.MatcherAgreesWithLinearScan := fun _ _ =>
  ⟨matchHit_eq_false_iff.trans lookupScan_eq_none_iff.symm, fun h => lookupScan_of_firstMatch (firstMatch_of_hit h)⟩

/-! ## Totality and determinism (R91) -/

theorem step_s1_of_enabled {s t : State} (h : s.ports.enabled = true) (ht : step s = .next t) :
    t.s1 = matchSlot s.rom s.ports.inValid s.ports.inWord := by
  rw [step_eq, edgeWith_of_enabled _ h] at ht
  cases ht
  rw [nextPorts_s1, enabledEdge_s1]

/-- Settles O6: an instruction's meaning is a clock edge, and an accepted word goes into stage 1 through the matcher alone. -/
theorem everyEdgeAndInstructionHasANextState : Obligations.EveryEdgeAndInstructionHasANextState := by
  refine ⟨fun s => ⟨_, step_eq s⟩, fun i s => ?frame, fun s s' t t' hrom h h' hw ht ht' => ?determinism, fun _ => rfl⟩
  case frame =>
    refine ⟨_, exec_eq i s, edgeWith_xlen _ s, edgeWith_rom _ s, edgeWith_extSet _ s, edgeWith_ports _ s, edgeWith_stimulus _ s,
      fun hr => ?_, edgeWith_stalled _⟩
    rw [edgeWith_reset _ hr]
    exact ⟨resetEdge_s1 s, resetEdge_out s⟩
  case determinism =>
    rw [step_s1_of_enabled h ht, step_s1_of_enabled h' ht', hrom, hw]
    exact ⟨rfl, rfl, rfl, rfl, rfl⟩

/-! ## Truncation (R85, R86) -/

theorem isLen4_eq_false_iff (w : Word) : isLen4 w = false ↔ w.extractLsb 1 0 ≠ 0b11#2 := by
  rw [Ne, ← isLen4_iff, Bool.not_eq_true]

/-- The two low bits are in the low half. -/
theorem isLen4_of_lowHalf_eq {w w' : Word} (h : lowHalf w = lowHalf w') : isLen4 w' = isLen4 w := by
  rw [← isLen4_compressed_lowHalf w', ← h, isLen4_compressed_lowHalf]

theorem truncWord_of_lowHalf_eq {w w' : Word} (h4 : isLen4 w = false) (h : lowHalf w = lowHalf w') :
    truncWord w' = truncWord w := by
  rw [truncWord_half h4, truncWord_half ((isLen4_of_lowHalf_eq h).trans h4), h]

theorem matchSlot_of_truncWord_eq {w w' : Word} (h : truncWord w' = truncWord w) (rom : List Entry) (v : Bool) :
    matchSlot rom v w' = matchSlot rom v w := by
  rw [← matchSlot_truncWord, h, matchSlot_truncWord]

theorem stepWith_s1_of_enabled {p : Ports} {s t : State} (h : p.enabled = true) (ht : stepWith p s = .next t) :
    t.s1 = matchSlot s.rom p.inValid p.inWord :=
  step_s1_of_enabled (s := { s with ports := p, stimulus := [] }) h ht

/-- Two words that truncate alike leave the same registers, whatever the edge. -/
theorem stepWith_registers_of_truncWord_eq {w w' : Word} (h : truncWord w' = truncWord w) {p : Ports} {s t t' : State}
    (ht : stepWith { p with inWord := w } s = .next t) (ht' : stepWith { p with inWord := w' } s = .next t') :
    t.s1 = t'.s1 ∧ t.out = t'.out := by
  rw [stepWith_eq] at ht ht'
  cases ht
  cases ht'
  simp only [edgeWith_s1, edgeWith_out, matchSlot_of_truncWord_eq h, and_self]

/-- Settles O7: a 16-bit word is truncated to its low half before it is matched, and a 32-bit word is its own truncation. -/
theorem upperHalfIsDiscarded : Obligations.UpperHalfIsDiscarded := by
  refine ⟨fun s t t' p w w' hw hlow ht ht' => ?half, fun s t p hp hw ht => ?whole⟩
  case half =>
    have h4 : isLen4 w = false := (isLen4_eq_false_iff w).mpr hw
    obtain ⟨hs1, hout⟩ := stepWith_registers_of_truncWord_eq (p := p) (truncWord_of_lowHalf_eq h4 hlow) ht ht'
    refine ⟨hs1, hout, fun hp => ?_⟩
    rw [stepWith_s1_of_enabled (p := { p with inWord := w }) hp ht, matchSlot_len4, matchSlot_word]
    exact ⟨h4, truncWord_half h4⟩
  case whole =>
    have h4 : isLen4 p.inWord = true := (isLen4_iff _).mpr hw
    rw [stepWith_s1_of_enabled hp ht, matchSlot_len4, matchSlot_word]
    exact ⟨h4, truncWord_len4 h4⟩

/-! ## From a word to an instruction and back (R62, R86, R88, R140) -/

/-- Row `n` of the opcode table, `r`, is the first row of the catalog of `x` that matches the word. -/
structure FirstRow (x : XLen) (w : Word) (n : Nat) (r : TableRow) : Prop where
  row : opcodeTable[n]? = some r
  admits : r.admits x = true
  hit : entryMatches r.entry w = true
  first : ∀ j a, j < n → opcodeTable[j]? = some a → a.admits x = true → entryMatches a.entry w = false

/-- What a scan of a filtered list finds is an element of the list, before which no element passes both tests. -/
theorem exists_getElem?_of_find?_filter {α : Type} {l : List α} {p q : α → Bool} {r : α} (h : (l.filter p).find? q = some r) :
    ∃ n : Nat, l[n]? = some r ∧ p r = true ∧ q r = true ∧ ∀ (j : Nat) (a : α), j < n → l[j]? = some a → p a = true → q a = false := by
  rw [List.find?_filter, List.find?_eq_some_iff_getElem] at h
  obtain ⟨hr, n, hn, rfl, hbefore⟩ := h
  obtain ⟨hp, hq⟩ := of_decide_eq_true hr
  refine ⟨n, List.getElem?_eq_getElem hn, hp, hq, fun j a hj ha hpa => ?_⟩
  obtain ⟨_, rfl⟩ := List.getElem?_eq_some_iff.mp ha
  simpa [hpa] using hbefore j hj

/-- Everything the decoder can answer: the instruction that the first matching row makes of the word, or a refusal of a word that
no entry of the catalog matches. -/
theorem decodeWord_cases (x : XLen) (w : Word) :
    (∃ n r, FirstRow x w n r ∧ decodeWord x w = .ok (r.make (tagFields r.tag (truncWord w)))) ∨
      (firstMatch (referenceRom x) w = none ∧ decodeWord x w = .error (if x = .rv128 then .noCatalog else .noMatch)) := by
  cases h : (referenceRows x).find? (fun r => entryMatches r.entry w) with
  | some r =>
    obtain ⟨n, hr, hx, hm, hbefore⟩ := exists_getElem?_of_find?_filter h
    exact .inl ⟨n, r, ⟨hr, hx, hm, hbefore⟩, by rw [decodeWord, h]⟩
  | none =>
    refine .inr ⟨firstMatch_eq_none_iff.mpr ?_, by rw [decodeWord, h]⟩
    simpa [referenceRom] using h

theorem matchHit_of_firstRow {x : XLen} {w : Word} {n : Nat} {r : TableRow} (h : FirstRow x w n r) :
    matchHit (referenceRom x) w = true := by
  rw [matchHit_eq, firstMatch_row h.row h.admits h.hit h.first, Option.isSome_some]

theorem admits_of_both {a : TableRow} {x : XLen} (h32 : a.on32 = true) (h64 : a.on64 = true) (hx : x ≠ .rv128) :
    a.admits x = true := by
  cases x with
  | rv32 => exact h32
  | rv64 => exact h64
  | rv128 => exact absurd rfl hx

/-- The operands that a row's format leaves out are those of words that an earlier row takes (R81), so the first matching row makes a
well-formed instruction of the catalog. -/
theorem wellFormed_of_firstRow {x : XLen} {w : Word} {n : Nat} {r : TableRow} (h : FirstRow x w n r) :
    WellFormed (r.make (tagFields r.tag (truncWord w))) = true ∧ (r.make (tagFields r.tag (truncWord w))).presentIn x = true := by
  obtain ⟨hclass, hlit⟩ := (entryMatches_iff _ _).mp h.hit
  have h4 : isLen4 (truncWord w) = !r.w16 := by rw [isLen4_truncWord, ← Bool.not_not (isLen4 w), ← hclass]; rfl
  obtain ⟨-, hrow, hwf⟩ := back_row h.row (truncWord w) h4 (truncWord_truncWord w) hlit
  constructor
  · refine hwf.resolve_right fun ⟨j, a, hj, ha, h32, h64, hma⟩ => ?_
    have hx : x ≠ .rv128 := by rintro rfl; cases h.admits
    rw [entryMatches_truncWord, h.first j a hj ha (admits_of_both h32 h64 hx)] at hma
    cases hma
  · rw [Instr.presentIn, hrow, h.row]
    exact h.admits

/-- Settles O25: the decoder runs the first row that matches, which makes an instruction with the word as its encoding. -/
theorem decodedInstructionEncodesBack : Obligations.DecodedInstructionEncodesBack := by
  refine ⟨fun x w i h => ?decoded, fun x w e h => ?refused⟩
  case decoded =>
    rcases decodeWord_cases x w with ⟨n, r, hr, hd⟩ | ⟨-, hd⟩ <;> cases hd.symm.trans h
    obtain ⟨hwf, hx⟩ := wellFormed_of_firstRow hr
    exact ⟨hwf, hx, encode_of_decode hd, matchHit_of_firstRow hr⟩
  case refused =>
    rcases decodeWord_cases x w with ⟨n, r, -, hd⟩ | ⟨hn, hd⟩ <;> cases hd.symm.trans h
    exact ⟨matchHit_eq_false_iff.mpr hn, rfl⟩

/-! ## A step runs the decoded instruction (R91, R92, R27) -/

theorem step_of_decode {s : State} {i : Instr} (h : decodeWord s.xlen s.ports.inWord = .ok i) : step s = driveNext (exec i s) := by
  rw [step, h]

theorem driveNext_exec (i : Instr) (s : State) : driveNext (exec i s) = .next (nextPorts (edgeWith (encode i) s)) := by
  rw [exec_eq]
  rfl

/-- Settles O26: with an instruction the step is its meaning; without one the step is still the edge with the word. -/
theorem stepRunsTheDecodedInstruction : Obligations.StepRunsTheDecodedInstruction :=
  ⟨fun s i h => ⟨⟨_, exec_eq i s, (step_of_decode h).trans (driveNext_exec i s)⟩, step_of_decode h⟩, fun s _ _ => step_eq s,
    fun s p ps h => by rw [nextPorts, h], fun _ => nextPorts_nil⟩

/-! ## Corner words (R93, R94) -/

/-- The bits that R86 discards have no part in decoding. -/
theorem decodeWord_truncWord (x : XLen) (w : Word) : decodeWord x (truncWord w) = decodeWord x w := by
  simp only [decodeWord, entryMatches_truncWord, truncWord_truncWord]

theorem wordIs_of_truncWord {x : XLen} {w : Word} {k : Nat} {i : Instr} (h : WordIs x (truncWord w) k i) : WordIs x w k i := by
  rwa [WordIs, decodeWord_truncWord, firstMatch_truncWord] at h

/-- A closed word of a closed instruction: its conditions and its place are evaluated. -/
theorem wordIs_of_closed {x : XLen} {i : Instr} {w : Word} {k : Nat} (h : WellFormed i = true := by rfl)
    (hx : i.presentIn x = true := by rfl) (hw : encode i = w := by decide) (hk : romIndex x i.rowNumber = k := by decide +kernel) :
    WordIs x w k i :=
  wordIs_of_encode h hx hw hk

theorem matchHit_of_wordIsNoMatch {x : XLen} {w : Word} (h : WordIsNoMatch x w) : matchHit (referenceRom x) w = false :=
  matchHit_eq_false_iff.mpr h

theorem matchIndex_of_wordIsNoMatch {x : XLen} {w : Word} (h : WordIsNoMatch x w) : matchIndex (referenceRom x) w = 0 :=
  matchIndex_of_no_hit (matchHit_of_wordIsNoMatch h)

theorem allOnes_noMatch : WordIsNoMatch .rv32 0xFFFFFFFF := longPrefix_noMatch _ _ (by decide) (by decide)

theorem halfOnes_noMatch : WordIsNoMatch .rv32 0x0000FFFF := longPrefix_noMatch _ _ (by decide) (by decide)

theorem half8000_noMatch : WordIsNoMatch .rv32 0x8000 := quadrant0_funct100_noMatch _ _ (by decide) (by decide)

/-- The entry of JALR, at index 3, is the only one that takes the worked word. -/
theorem filter_entryMatches_ret :
    (referenceRom .rv32).filter (entryMatches · 0x00008067) = [⟨0x00000067, 0x0000707F, false, 9⟩] := by decide +kernel

theorem decodeSlot_ret : decodeSlot (referenceRom .rv32) true 0x00008067 =
    { valid := true, len4 := true, word := 0x00008067, hit := true, index := 3, fmt := 9, fvalid := 0x013,
      fields := { rd := 0, rs1 := 1, imm := 0 } } := by decide +kernel

theorem referenceNames_jalr : (referenceNames .rv32).getD 3 "" = "JALR" := by decide +kernel

/-- JALR to `ra` with neither link nor offset is shown as `ret` (R158), and the CSR names have no part in it. -/
theorem canonicalText_jalr_ret (lk : Lookup) (x : XLen) (a : Nat) {f : Fields} (hrd : f.rd = 0) (hrs1 : f.rs1 = 1) (himm : f.imm = 0) :
    canonicalText lk x a "JALR" f = some "ret" := by
  simp [canonicalText, hrd, hrs1, himm]

theorem assemblyText_of_canonicalText {lk : Lookup} {x : XLen} {names : List String} {a : Nat} {o : Stage2} {t : String}
    (hhit : o.hit = true) (h4 : o.len4 = true) (ht : canonicalText lk x a (names.getD o.index "") o.fields = some t) :
    assemblyText lk x names a o = t := by
  simp only [assemblyText, hhit, h4, ht, Bool.not_true, Bool.false_eq_true, if_false, if_true]

theorem assemblyText_ret (lk : Lookup) (a : Nat) :
    assemblyText lk .rv32 (referenceNames .rv32) a (decodeSlot (referenceRom .rv32) true 0x00008067) = "ret" := by
  rw [decodeSlot_ret]
  refine assemblyText_of_canonicalText rfl rfl ?_
  rw [referenceNames_jalr]
  exact canonicalText_jalr_ret lk _ a rfl rfl rfl

theorem matchFmt_ret : matchFmt (referenceRom .rv32) 0x00008067 = 9 := congrArg Stage2.fmt decodeSlot_ret

/-- The pairs of R81 seen at one word each: the later entry's comparator is set as well. -/
theorem laterEntries_match : ∀ p ∈ ([(0x9002, 152), (0x9002, 153), (0x6105, 134), (0x8082, 151)] : List (Word × Nat)),
    ((referenceRom .rv32)[p.2]?.map (entryMatches · p.1)) = some true := by decide +kernel

/-- Settles O27: a word that decodes is its instruction's encoding, at the place of that instruction's row; the words of no entry are
members of classes that have none (R51, R64); widths and truncations are evaluated. -/
theorem cornerWordsDecode : Obligations.CornerWordsDecode := by
  refine ⟨wordIs_of_closed, allOnes_noMatch, ?_, halfOnes_noMatch, ?_, ?_, ?_, ?_, ?_, ?_, ?_, ?_, ?_, ?_, ?_, ?_, ?_, ?_, ?_, ?_, ?_,
    laterEntries_match, wordIs_of_truncWord wordIs_of_closed, ?_, ?_, wordIs_of_closed, wordIs_of_closed, wordIs_of_closed,
    wordIs_of_closed, half8000_noMatch, ?_, wordIs_of_closed, wordIs_of_closed, matchFmt_ret,
    matchHit_of_wordIsNoMatch allOnes_noMatch, matchIndex_of_wordIsNoMatch allOnes_noMatch,
    matchHit_of_wordIsNoMatch halfOnes_noMatch, matchIndex_of_wordIsNoMatch halfOnes_noMatch,
    matchHit_of_wordIsNoMatch half8000_noMatch, matchIndex_of_wordIsNoMatch half8000_noMatch, assemblyText_ret, ?_, ?_,
    filter_entryMatches_ret, wordIs_of_closed, wordIs_of_closed, wordIs_of_closed, wordIs_of_closed, wordIs_of_closed,
    wordIs_of_closed, wordIs_of_closed, wordIs_of_closed, wordIs_of_closed, wordIs_of_closed⟩
  all_goals decide

end Sys2Proof.Proofs
end

section
/-! # O22, O23: the field mux and the sign rule

A field port is the value that the tag's rule gives, gated by the field's bit of the tag's field-valid vector (R95). An immediate port
is a sign-extended or a zero-extended field, so what its upper bits are is a fact about the extension, whatever the field (R97). -/

namespace Sys2Proof.Proofs

open Sys2Proof.Machine Sys2Proof.Laws

/-! ## The field mux (R95) -/

theorem fvalidOf_of_reserved {c : Code} (h : tagOfCode c = none) : fvalidOf c = 0 := by simp only [fvalidOf, h]; rfl

theorem fieldsOf_of_reserved {c : Code} (h : tagOfCode c = none) (w : Word) : fieldsOf c w = {} := by simp only [fieldsOf, h]

theorem tagFields_of_fvalid_zero {t : Tag} (h : tagFvalid t = 0) (w : Word) : tagFields t w = {} := by
  rw [tagFields, h]; rfl

theorem tagCode_of_tagOfCode {c : Code} {t : Tag} (h : tagOfCode c = some t) : tagCode t = c := by
  simpa using List.find?_some h

/-- Without a field-valid bit every field is 0, for a tag and for a reserved code alike. -/
theorem fieldsOf_of_fvalid_zero {c : Code} (h : fvalidOf c = 0) (w : Word) : fieldsOf c w = {} := by
  cases ht : tagOfCode c with
  | none => exact fieldsOf_of_reserved ht w
  | some t =>
    obtain rfl := tagCode_of_tagOfCode ht
    rw [fvalidOf_tagCode] at h
    rw [fieldsOf_tagCode, tagFields_of_fvalid_zero h]

/-- Settles O22: the ports of a tag are its gated values; extraction is a function of the word and the code (R95). -/
theorem fieldMux : Obligations.FieldMux := by
  refine ⟨fun t w => ?tag, fun c w => ⟨fvalidOf_of_reserved, fun h => fieldsOf_of_fvalid_zero h w⟩,
    fun w => ⟨fvalidOf_tagCode .none, fieldsOf_zero w⟩, fun a b hword hfmt => ?stage1⟩
  case tag =>
    simp only [fieldsOf_tagCode, fvalidOf_tagCode, tagFields, gateFields, true_and]
    exact ⟨rfl, rfl, rfl, rfl, rfl, rfl, rfl, rfl, by simp, by simp⟩
  case stage1 =>
    rw [extractSlot_fvalid, extractSlot_fvalid, extractSlot_fields, extractSlot_fields, hword, hfmt]
    exact ⟨rfl, rfl⟩

/-! ## The sign rule (R13, R97) -/

/-- The codes of the tags with a signed immediate, each with the declared width. -/
def signedImmediates : List (Code × Nat) :=
  [(9, 12), (14, 12), (15, 13), (17, 21), (34, 6), (35, 18), (36, 10), (48, 9), (50, 6), (51, 12)]

/-- The codes of the tags with an unsigned immediate, each with the declared width. -/
def unsignedImmediates : List (Code × Nat) :=
  [(13, 5), (38, 8), (39, 9), (40, 8), (41, 9), (42, 10), (43, 7), (44, 8), (45, 7), (46, 8)]

theorem imm_of_signedImmediates (w : Word) :
    ∀ p ∈ signedImmediates, ∃ v : BitVec p.2, (fieldsOf p.1 w).imm = sext p.2 v := by
  simp only [signedImmediates, List.forall_mem_cons]
  exact ⟨⟨_, rfl⟩, ⟨_, rfl⟩, ⟨_, rfl⟩, ⟨_, rfl⟩, ⟨_, rfl⟩, ⟨_, rfl⟩, ⟨_, rfl⟩, ⟨_, rfl⟩, ⟨_, rfl⟩, ⟨_, rfl⟩, nofun⟩

theorem imm_of_unsignedImmediates (w : Word) :
    ∀ p ∈ unsignedImmediates, ∃ v : BitVec p.2, (fieldsOf p.1 w).imm = zext p.2 v := by
  simp only [unsignedImmediates, List.forall_mem_cons]
  exact ⟨⟨_, rfl⟩, ⟨_, rfl⟩, ⟨_, rfl⟩, ⟨_, rfl⟩, ⟨_, rfl⟩, ⟨_, rfl⟩, ⟨_, rfl⟩, ⟨_, rfl⟩, ⟨_, rfl⟩, ⟨_, rfl⟩, nofun⟩

theorem getLsbD_sext_of_le {n k : Nat} (v : BitVec n) (h : n ≤ k + 1) (hk : k < 32) : (sext n v).getLsbD k = v.msb := by
  rw [sext, BitVec.getLsbD_signExtend]
  split
  · obtain rfl : k = n - 1 := by omega
    simp [hk, BitVec.msb_eq_getLsbD_last]
  · simp [hk]

theorem getLsbD_zext_of_le {n k : Nat} (v : BitVec n) (h : n ≤ k) : (zext n v).getLsbD k = false := by
  rw [zext, BitVec.getLsbD_setWidth, BitVec.getLsbD_of_ge v k h, Bool.and_false]

/-- Settles O23: from the declared width's last bit up, a sign extension has the field's sign bit and a zero extension nothing. -/
theorem signRule : Obligations.SignRule := by
  refine ⟨fun c n hmem w k hn hk => ?signed, fun c n hmem w k hn => ?unsigned⟩
  case signed =>
    obtain ⟨v, hv⟩ := imm_of_signedImmediates w (c, n) hmem
    rw [hv, getLsbD_sext_of_le v hn hk, getLsbD_sext_of_le v (by omega) (by omega)]
  case unsigned =>
    obtain ⟨v, hv⟩ := imm_of_unsignedImmediates w (c, n) hmem
    rw [hv, getLsbD_zext_of_le v hn]

end Sys2Proof.Proofs
end

section
/-! # O36 to O49: the 32-bit tags

Every entry of a tag completes for the same reason: its instructions are well formed, so that the first match of the word is the row of
the instruction (`Laws.completesAs_of`). What differs between entries is the row's place in the two reference catalogs and its literals,
which are evaluated (R139). The field ports of a tag are the fields that its rule names (R98 to R115), and the range of an immediate is
that of the field it extends (R13). -/

namespace Sys2Proof.Proofs

open Sys2Proof.Machine Sys2Proof.Laws

/-! ## An instruction at its row's place (R138, R139) -/

/-- Where row `n` of the opcode table stands in the reference catalog of `x`, and as which entry; nothing where that catalog leaves the
row out. -/
def catalogPlace (x : XLen) (n : Nat) : Option (Nat × Entry) :=
  opcodeTable[n]?.bind fun r => if r.admits x then some (romIndex x n, r.entry) else none

theorem catalogPlace_eq_some_iff {x : XLen} {n ix : Nat} {e : Entry} : catalogPlace x n = some (ix, e) ↔
    ∃ r, opcodeTable[n]? = some r ∧ r.admits x = true ∧ romIndex x n = ix ∧ r.entry = e := by
  simp [catalogPlace, Option.bind_eq_some_iff]

theorem presentIn_eq_isSome (i : Instr) (x : XLen) : i.presentIn x = (catalogPlace x i.rowNumber).isSome := by
  unfold Instr.presentIn catalogPlace
  cases opcodeTable[i.rowNumber]? with
  | none => rfl
  | some r => cases h : r.admits x <;> simp [h]

theorem presentIn_eq_false_of_catalogPlace {x : XLen} {i : Instr} (h : catalogPlace x i.rowNumber = none) :
    i.presentIn x = false := by
  rw [presentIn_eq_isSome, h, Option.isSome_none]

theorem completesAs_of_catalogPlace {x : XLen} {i : Instr} {ix : Nat} {value mask : Word} {len4 : Bool} {code : Code}
    {fv : BitVec 10} {f : Fields} (h : WellFormed i = true)
    (hp : catalogPlace x i.rowNumber = some (ix, ⟨value, mask, !len4, code⟩)) (hfv : fvalidOf code = fv) (hf : i.fields = f) :
    CompletesAs x i ix value mask len4 code fv f := by
  obtain ⟨r, hr, hx, hi, he⟩ := catalogPlace_eq_some_iff.mp hp
  obtain ⟨hv, hm, hw, hc⟩ := Entry.mk.inj he
  exact completesAs_of i h hr hx hi hv hm (Bool.not_eq_eq_eq_not.mpr hw) hc (hc ▸ hfv) hf

section
variable {i : Instr} {ix ix32 ix64 : Nat} {value mask : Word} {len4 : Bool} {code : Code} {fv : BitVec 10}
  {f : Fields}

/-- The row's number is read off the constructor, so that the two places are closed evaluations whatever the operands. -/
theorem inBoth_of (h : WellFormed i = true)
    (h32 : catalogPlace .rv32 i.rowNumber = some (ix32, ⟨value, mask, !len4, code⟩) := by
      dsimp only [Instr.rowNumber]; decide +kernel)
    (h64 : catalogPlace .rv64 i.rowNumber = some (ix64, ⟨value, mask, !len4, code⟩) := by
      dsimp only [Instr.rowNumber]; decide +kernel)
    (hfv : fvalidOf code = fv := by rfl) (hf : i.fields = f := by rfl) : InBoth i ix32 ix64 value mask len4 code fv f :=
  ⟨completesAs_of_catalogPlace h h32 hfv hf, completesAs_of_catalogPlace h h64 hfv hf⟩

theorem in32_of (h : WellFormed i = true)
    (h64 : catalogPlace .rv64 i.rowNumber = none := by dsimp only [Instr.rowNumber]; decide +kernel)
    (h32 : catalogPlace .rv32 i.rowNumber = some (ix, ⟨value, mask, !len4, code⟩) := by
      dsimp only [Instr.rowNumber]; decide +kernel)
    (hfv : fvalidOf code = fv := by rfl) (hf : i.fields = f := by rfl) : In32 i ix value mask len4 code fv f :=
  ⟨presentIn_eq_false_of_catalogPlace h64, completesAs_of_catalogPlace h h32 hfv hf⟩

theorem in64_of (h : WellFormed i = true)
    (h32 : catalogPlace .rv32 i.rowNumber = none := by dsimp only [Instr.rowNumber]; decide +kernel)
    (h64 : catalogPlace .rv64 i.rowNumber = some (ix, ⟨value, mask, !len4, code⟩) := by
      dsimp only [Instr.rowNumber]; decide +kernel)
    (hfv : fvalidOf code = fv := by rfl) (hf : i.fields = f := by rfl) : In64 i ix value mask len4 code fv f :=
  ⟨presentIn_eq_false_of_catalogPlace h32, completesAs_of_catalogPlace h h64 hfv hf⟩

end

/-! ## Tags without an immediate (R98 to R106) -/

/-- Settles O36: the eight words are closed, and the tag drives no port. -/
theorem noOperandTagCompletes : Obligations.NoOperandTagCompletes :=
  ⟨fun w => ⟨fvalidOf_tagCode .none, fieldsOf_zero w⟩,
    ⟨inBoth_of rfl, inBoth_of rfl, inBoth_of rfl, inBoth_of rfl, inBoth_of rfl, inBoth_of rfl, inBoth_of rfl,
      inBoth_of rfl⟩, wordIs_of_closed⟩

/-- Settles O37: every operand is a register, so every instruction of the tag is well formed. -/
theorem registerTagCompletes : Obligations.RegisterTagCompletes := by
  refine ⟨fun w => ⟨fvalidOf_tagCode .r, (fieldsOf_tagCode .r w).trans (Fields.ofR rfl rfl rfl)⟩, fun rd rs1 rs2 => ?entries,
    wordIs_of_closed, wordIs_of_closed⟩
  case entries =>
    iterate 10 refine ⟨inBoth_of rfl, ?_⟩ -- RV32I
    iterate 5 refine ⟨in64_of rfl, ?_⟩ -- RV64I
    iterate 8 refine ⟨inBoth_of rfl, ?_⟩ -- RV32M
    iterate 5 refine ⟨in64_of rfl, ?_⟩ -- RV64M
    iterate 15 refine ⟨inBoth_of rfl, ?_⟩ -- RV32F, RV32D
    exact inBoth_of rfl

/-- Settles O38: two registers each, and the port of the third is not driven. -/
theorem oneSourceAndNoDestTagsComplete : Obligations.OneSourceAndNoDestTagsComplete :=
  ⟨fun w => have hF : fieldsOf 2 w = _ := (fieldsOf_tagCode .r2 w).trans (Fields.ofR2 rfl rfl)
      ⟨fvalidOf_tagCode .r2, hF, congrArg Fields.rs2 hF⟩,
    fun _ _ => ⟨inBoth_of rfl, inBoth_of rfl, inBoth_of rfl, inBoth_of rfl, in64_of rfl, in64_of rfl⟩, wordIs_of_closed,
    fun w => have hF : fieldsOf 3 w = _ := (fieldsOf_tagCode .rS w).trans (Fields.ofRS rfl rfl)
      ⟨fvalidOf_tagCode .rS, hF, congrArg Fields.rd hF⟩,
    fun _ _ => inBoth_of rfl, wordIs_of_closed⟩

/-- Settles O39: any rounding mode is an operand, reserved ones included. -/
theorem roundingTagCompletes : Obligations.RoundingTagCompletes :=
  ⟨fun w => ⟨fvalidOf_tagCode .rRm, (fieldsOf_tagCode .rRm w).trans (Fields.ofRRM rfl rfl rfl rfl)⟩,
    fun _ _ _ _ => ⟨inBoth_of rfl, inBoth_of rfl, inBoth_of rfl, inBoth_of rfl, inBoth_of rfl, inBoth_of rfl, inBoth_of rfl,
      inBoth_of rfl⟩,
    wordIs_of_closed⟩

/-- Settles O40: the rs2 field is a literal of each row, and its port is not driven. -/
theorem oneSourceRoundingTagCompletes : Obligations.OneSourceRoundingTagCompletes := by
  refine ⟨fun w => ?fields, fun rd rs1 rm => ?entries, wordIs_of_closed⟩
  case fields =>
    have hF : fieldsOf 5 w = _ := (fieldsOf_tagCode .r2Rm w).trans (Fields.ofR2RM rfl rfl rfl)
    exact ⟨fvalidOf_tagCode .r2Rm, hF, congrArg Fields.rs2 hF⟩
  case entries =>
    iterate 5 refine ⟨inBoth_of rfl, ?_⟩ -- RV32F
    iterate 4 refine ⟨in64_of rfl, ?_⟩ -- RV64F
    iterate 7 refine ⟨inBoth_of rfl, ?_⟩ -- RV32D
    exact ⟨in64_of rfl, in64_of rfl, in64_of rfl, in64_of rfl⟩ -- RV64D

/-- Settles O41: four registers and a rounding mode, all free. -/
theorem fusedTagCompletes : Obligations.FusedTagCompletes :=
  ⟨fun w => ⟨fvalidOf_tagCode .r4Rm, (fieldsOf_tagCode .r4Rm w).trans (Fields.ofR4RM rfl rfl rfl rfl rfl)⟩,
    fun _ _ _ _ _ => ⟨inBoth_of rfl, inBoth_of rfl, inBoth_of rfl, inBoth_of rfl, inBoth_of rfl, inBoth_of rfl, inBoth_of rfl,
      inBoth_of rfl⟩,
    wordIs_of_closed, wordIs_of_closed⟩

/-- Settles O42: aq and rl are bits of the word that no row fixes. -/
theorem atomicTagCompletes : Obligations.AtomicTagCompletes := by
  refine ⟨fun w => ⟨fvalidOf_tagCode .rAmo, (fieldsOf_tagCode .rAmo w).trans (Fields.ofRAMO rfl rfl rfl rfl rfl)⟩,
    fun rd rs1 rs2 aq rl => ?entries, wordIs_of_closed⟩
  case entries =>
    iterate 10 refine ⟨inBoth_of rfl, ?_⟩ -- RV32A
    iterate 9 refine ⟨in64_of rfl, ?_⟩ -- RV64A
    exact in64_of rfl

/-- Settles O43: the rows of LR fix the rs2 field at 0, and no other row takes the words with another one (R64). -/
theorem loadReservedTagCompletes : Obligations.LoadReservedTagCompletes :=
  ⟨fun w => ⟨fvalidOf_tagCode .rLr, (fieldsOf_tagCode .rLr w).trans (Fields.ofRLR rfl rfl rfl rfl)⟩,
    fun _ _ _ _ => ⟨inBoth_of rfl, in64_of rfl⟩, wordIs_of_closed, loadReserved_rs2_noMatch⟩

/-! ## The numbers that immediates and shift amounts stand for (R13, R53) -/

theorem toInt_sext_range {n : Nat} (v : BitVec n) (hn : n ≤ 32) :
    -2 ^ (n - 1) ≤ (sext n v).toInt ∧ (sext n v).toInt ≤ 2 ^ (n - 1) - 1 := by
  rw [toInt_sext v hn]
  exact ⟨BitVec.le_toInt v, Int.le_sub_one_of_lt BitVec.toInt_lt⟩

theorem immI_range (w : Word) : -2048 ≤ (immI w).toInt ∧ (immI w).toInt ≤ 2047 := toInt_sext_range (n := 12) _ (by decide)

theorem immS_range (w : Word) : -2048 ≤ (immS w).toInt ∧ (immS w).toInt ≤ 2047 := toInt_sext_range (n := 12) _ (by decide)

theorem immB_range (w : Word) : -4096 ≤ (immB w).toInt ∧ (immB w).toInt ≤ 4094 ∧ (immB w).toInt % 2 = 0 :=
  sext_range (n := 12) (k := 1) (w.extractLsb 31 31 ++ w.extractLsb 7 7 ++ w.extractLsb 30 25 ++ w.extractLsb 11 8) (by decide)
    (congrArg (sext 13) (BitVec.setWidth_eq _).symm) rfl (by decide)

theorem immJ_range (w : Word) : -1048576 ≤ (immJ w).toInt ∧ (immJ w).toInt ≤ 1048574 ∧ (immJ w).toInt % 2 = 0 :=
  sext_range (n := 20) (k := 1) (w.extractLsb 31 31 ++ w.extractLsb 19 12 ++ w.extractLsb 20 20 ++ w.extractLsb 30 21) (by decide)
    (congrArg (sext 21) (BitVec.setWidth_eq _).symm) rfl (by decide)

theorem immCsri_range (w : Word) : 0 ≤ (immCsri w).toInt ∧ (immCsri w).toInt ≤ 31 := by
  have hlt : (w.extractLsb 19 15).toNat < 32 := BitVec.isLt _
  rw [immCsri, toInt_zext _ (by decide)]
  omega

theorem immU_low (w : Word) : (immU w).extractLsb 11 0 = 0#12 := BitVec.extractLsb'_append_eq_right

theorem immU_msb (w : Word) : (immU w).msb = w.getLsbD 31 := by
  rw [immU, BitVec.msb_append]
  simp [BitVec.msb_eq_getLsbD_last]

theorem shamt5_le (w : Word) : (shamt5 w).toNat ≤ 31 := by
  have hlt : (w.extractLsb 24 20).toNat < 32 := BitVec.isLt _
  rw [shamt5, BitVec.toNat_setWidth_of_le (by decide)]
  omega

/-! ## Tags with an immediate, a shift amount or a CSR address (R107 to R115) -/

/-- Settles O44: a sign-extended 12-bit immediate is all that an entry of the tag asks for. -/
theorem immediateTagCompletes : Obligations.ImmediateTagCompletes := by
  refine ⟨fun w => ⟨fvalidOf_tagCode .i, (fieldsOf_tagCode .i w).trans (Fields.ofI rfl rfl rfl), immI_range w⟩,
    fun rd rs1 imm h => ?entries, wordIs_of_closed, wordIs_of_closed, wordIs_of_closed⟩
  case entries =>
    iterate 13 refine ⟨inBoth_of h, ?_⟩ -- RV32I
    iterate 3 refine ⟨in64_of h, ?_⟩ -- RV64I
    exact ⟨inBoth_of h, inBoth_of h⟩ -- RV32F, RV32D

/-- Settles O45: the 5-bit shifts fix bit 25 at 0, the 6-bit ones carry it in the shift amount, and at XLEN=32 there are only the
former (R64). -/
theorem shiftTagsComplete : Obligations.ShiftTagsComplete := by
  refine ⟨fun w => ?fields5, fun rd rs1 shamt h => ?entries5, wordIs_of_closed, shift_bit25_noMatch _ (.inl (by decide)),
    shift_bit25_noMatch, fun w => ?fields6, fun rd rs1 shamt => ?entries6, wordIs_of_closed, wordIs_of_closed⟩
  case fields5 =>
    have hF : fieldsOf 10 w = _ := (fieldsOf_tagCode .iSh5 w).trans (Fields.ofISH5 rfl rfl rfl)
    exact ⟨fvalidOf_tagCode .iSh5, hF, shamt5_le w, congrArg Fields.imm hF⟩
  case entries5 => exact ⟨in32_of h, in32_of h, in32_of h, in64_of h, in64_of h, in64_of h⟩
  case fields6 =>
    have hF : fieldsOf 11 w = _ := (fieldsOf_tagCode .iSh6 w).trans (Fields.ofISH6 rfl rfl rfl)
    exact ⟨fvalidOf_tagCode .iSh6, hF, Nat.le_of_lt_succ (BitVec.isLt _), congrArg Fields.imm hF⟩
  case entries6 => exact ⟨in64_of rfl, in64_of rfl, in64_of rfl⟩

/-- Settles O46: any address is an operand; the immediate forms have a zero-extended 5-bit immediate in the place of rs1. -/
theorem csrTagsComplete : Obligations.CsrTagsComplete := by
  refine ⟨fun w => ?fields, fun rd rs1 csr => ⟨inBoth_of rfl, inBoth_of rfl, inBoth_of rfl⟩, wordIs_of_closed, wordIs_of_closed,
    fun w => ?fieldsImm, fun rd imm csr h => ⟨inBoth_of h, inBoth_of h, inBoth_of h⟩, wordIs_of_closed⟩
  case fields =>
    have hF : fieldsOf 12 w = _ := (fieldsOf_tagCode .iCsr w).trans (Fields.ofICSR rfl rfl rfl)
    exact ⟨fvalidOf_tagCode .iCsr, hF, Nat.le_of_lt_succ (BitVec.isLt _), congrArg Fields.imm hF⟩
  case fieldsImm =>
    have hF : fieldsOf 13 w = _ := (fieldsOf_tagCode .iCsri w).trans (Fields.ofICSRI rfl rfl rfl)
    obtain ⟨hmin, hmax⟩ := immCsri_range w
    exact ⟨fvalidOf_tagCode .iCsri, hF, hmin, hmax, congrArg Fields.rs1 hF⟩

/-- Settles O47: the immediate of a store is that of the tag I in two pieces, and rd is not driven. -/
theorem storeTagCompletes : Obligations.StoreTagCompletes := by
  refine ⟨fun w => ?fields, fun rs1 rs2 imm h => ?entries, wordIs_of_closed⟩
  case fields =>
    have hF : fieldsOf 14 w = _ := (fieldsOf_tagCode .s w).trans (Fields.ofS rfl rfl rfl)
    obtain ⟨hmin, hmax⟩ := immS_range w
    exact ⟨fvalidOf_tagCode .s, hF, hmin, hmax, congrArg Fields.rd hF⟩
  case entries => exact ⟨inBoth_of h, inBoth_of h, inBoth_of h, in64_of h, inBoth_of h, inBoth_of h⟩

/-- Settles O48: the last bit of the immediate is a literal 0, so that it is even. -/
theorem branchTagCompletes : Obligations.BranchTagCompletes := by
  refine ⟨fun w => ⟨fvalidOf_tagCode .b, (fieldsOf_tagCode .b w).trans (Fields.ofB rfl rfl rfl), immB_range w⟩,
    fun rs1 rs2 imm h h0 => ?entries, wordIs_of_closed, wordIs_of_closed, wordIs_of_closed, wordIs_of_closed⟩
  case entries =>
    have hwf := and_intro h h0
    exact ⟨inBoth_of hwf, inBoth_of hwf, inBoth_of hwf, inBoth_of hwf, inBoth_of hwf, inBoth_of hwf⟩

/-- Settles O49: the immediate of tag U has 12 literal zeros at its end, that of tag J one. -/
theorem upperAndJumpTagsComplete : Obligations.UpperAndJumpTagsComplete :=
  ⟨fun w => ⟨fvalidOf_tagCode .u, (fieldsOf_tagCode .u w).trans (Fields.ofU rfl rfl), immU_low w, immU_msb w⟩,
    fun _ _ h0 => ⟨inBoth_of h0, inBoth_of h0⟩, wordIs_of_closed, wordIs_of_closed,
    fun w => ⟨fvalidOf_tagCode .j, (fieldsOf_tagCode .j w).trans (Fields.ofJ rfl rfl), immJ_range w⟩,
    fun _ _ h h0 => inBoth_of (and_intro h h0), wordIs_of_closed, wordIs_of_closed, wordIs_of_closed⟩

end Sys2Proof.Proofs
end

section
/-! # O35, O50 to O59: the 16-bit tags

The compressed rules read the low half of the word, and a field of the low half is the same field of the word (R54), so that the ports
of each tag are fields of the word itself. An immediate is a field above literal zeros, which gives its range and its alignment (R13,
R55). The entries complete as the 32-bit ones do (`inBoth_of`, `in32_of`, `in64_of`). The words that an earlier entry takes (R81) are
those of the earlier entry's instruction, and an instruction's meaning depends on its word alone (`Laws.exec_eq`). -/

namespace Sys2Proof.Proofs

open Sys2Proof.Machine Sys2Proof.Laws

/-! ## Fields of the low half are fields of the word (R54, R55, R116) -/

theorem fieldCRd_lowHalf (w : Word) : fieldCRd (lowHalf w) = w.extractLsb 11 7 :=
  lowHalf_extractLsb w 11 7 (by decide) (by decide)

theorem fieldCRs2_lowHalf (w : Word) : fieldCRs2 (lowHalf w) = w.extractLsb 6 2 :=
  lowHalf_extractLsb w 6 2 (by decide) (by decide)

theorem fieldCHigh_lowHalf (w : Word) : fieldCHigh (lowHalf w) = rp (w.extractLsb 9 7) :=
  congrArg rp (lowHalf_extractLsb w 9 7 (by decide) (by decide))

theorem fieldCLow_lowHalf (w : Word) : fieldCLow (lowHalf w) = rp (w.extractLsb 4 2) :=
  congrArg rp (lowHalf_extractLsb w 4 2 (by decide) (by decide))

theorem shamtC_lowHalf (w : Word) : shamtC (lowHalf w) = w.extractLsb 12 12 ++ w.extractLsb 6 2 := by
  simp (disch := decide) only [shamtC, lowHalf_extractLsb]

theorem immCI_lowHalf (w : Word) : immCI (lowHalf w) = sext 6 (w.extractLsb 12 12 ++ w.extractLsb 6 2) := by
  simp (disch := decide) only [immCI, lowHalf_extractLsb]

theorem immCLui_lowHalf (w : Word) : immCLui (lowHalf w) = sext 18 (w.extractLsb 12 12 ++ w.extractLsb 6 2 ++ 0#12) := by
  simp (disch := decide) only [immCLui, lowHalf_extractLsb]

theorem immCAddi16sp_lowHalf (w : Word) : immCAddi16sp (lowHalf w) =
    sext 10 (w.extractLsb 12 12 ++ w.extractLsb 4 3 ++ w.extractLsb 5 5 ++ w.extractLsb 2 2 ++ w.extractLsb 6 6 ++ 0#4) := by
  simp (disch := decide) only [immCAddi16sp, lowHalf_extractLsb]

theorem immCLwsp_lowHalf (w : Word) : immCLwsp (lowHalf w) =
    zext 8 (w.extractLsb 3 2 ++ w.extractLsb 12 12 ++ w.extractLsb 6 4 ++ 0#2) := by
  simp (disch := decide) only [immCLwsp, lowHalf_extractLsb]

theorem immCLdsp_lowHalf (w : Word) : immCLdsp (lowHalf w) =
    zext 9 (w.extractLsb 4 2 ++ w.extractLsb 12 12 ++ w.extractLsb 6 5 ++ 0#3) := by
  simp (disch := decide) only [immCLdsp, lowHalf_extractLsb]

theorem immCSwsp_lowHalf (w : Word) : immCSwsp (lowHalf w) = zext 8 (w.extractLsb 8 7 ++ w.extractLsb 12 9 ++ 0#2) := by
  simp (disch := decide) only [immCSwsp, lowHalf_extractLsb]

theorem immCSdsp_lowHalf (w : Word) : immCSdsp (lowHalf w) = zext 9 (w.extractLsb 9 7 ++ w.extractLsb 12 10 ++ 0#3) := by
  simp (disch := decide) only [immCSdsp, lowHalf_extractLsb]

theorem immCIW_lowHalf (w : Word) : immCIW (lowHalf w) =
    zext 10 (w.extractLsb 10 7 ++ w.extractLsb 12 11 ++ w.extractLsb 5 5 ++ w.extractLsb 6 6 ++ 0#2) := by
  simp (disch := decide) only [immCIW, lowHalf_extractLsb]

theorem immCW_lowHalf (w : Word) : immCW (lowHalf w) =
    zext 7 (w.extractLsb 5 5 ++ w.extractLsb 12 10 ++ w.extractLsb 6 6 ++ 0#2) := by
  simp (disch := decide) only [immCW, lowHalf_extractLsb]

theorem immCD_lowHalf (w : Word) : immCD (lowHalf w) = zext 8 (w.extractLsb 6 5 ++ w.extractLsb 12 10 ++ 0#3) := by
  simp (disch := decide) only [immCD, lowHalf_extractLsb]

theorem immCB_lowHalf (w : Word) : immCB (lowHalf w) =
    sext 9 (w.extractLsb 12 12 ++ w.extractLsb 6 5 ++ w.extractLsb 2 2 ++ w.extractLsb 11 10 ++ w.extractLsb 4 3 ++ 0#1) := by
  simp (disch := decide) only [immCB, lowHalf_extractLsb]

theorem immCJ_lowHalf (w : Word) : immCJ (lowHalf w) =
    sext 12 (w.extractLsb 12 12 ++ w.extractLsb 8 8 ++ w.extractLsb 10 9 ++ w.extractLsb 6 6 ++ w.extractLsb 7 7 ++
      w.extractLsb 2 2 ++ w.extractLsb 11 11 ++ w.extractLsb 5 3 ++ 0#1) := by
  simp (disch := decide) only [immCJ, lowHalf_extractLsb]

/-- Truncation keeps the low half (R86). -/
theorem lowHalf_truncWord (w : Word) : lowHalf (truncWord w) = lowHalf w := by
  cases h : isLen4 w with
  | true => rw [truncWord_len4 h]
  | false => rw [truncWord_half h]; exact BitVec.extractLsb'_append_eq_right

/-! ## The numbers that the compressed immediates stand for (R13, R55) -/

theorem immCI_range (c : Half) : -32 ≤ (immCI c).toInt ∧ (immCI c).toInt ≤ 31 := toInt_sext_range (n := 6) _ (by decide)

/-- A sign-extended immediate of `n` bits above `k` literal zeros. -/
theorem sext_append_zeros_range {n k : Nat} (a : BitVec n) (hn : n + k ≤ 32) (h0 : 0 < n) :
    -(2 ^ (n - 1) * 2 ^ k : Int) ≤ (sext (n + k) (a ++ 0#k)).toInt ∧
      (sext (n + k) (a ++ 0#k)).toInt ≤ (2 ^ (n - 1) - 1) * 2 ^ k ∧ (sext (n + k) (a ++ 0#k)).toInt % (2 ^ k : Nat) = 0 :=
  sext_range a hn (congrArg (sext _) (BitVec.setWidth_eq _).symm) rfl h0

/-- A zero-extended immediate of `n` bits above `k` literal zeros. -/
theorem zext_append_zeros_range {n k : Nat} (a : BitVec n) (hn : n + k < 32) :
    0 ≤ (zext (n + k) (a ++ 0#k)).toInt ∧ (zext (n + k) (a ++ 0#k)).toInt ≤ (2 ^ n - 1) * 2 ^ k ∧
      (zext (n + k) (a ++ 0#k)).toInt % (2 ^ k : Nat) = 0 :=
  zext_range a hn (congrArg (zext _) (BitVec.setWidth_eq _).symm) rfl

theorem immCAddi16sp_range (c : Half) :
    -512 ≤ (immCAddi16sp c).toInt ∧ (immCAddi16sp c).toInt ≤ 496 ∧ (immCAddi16sp c).toInt % 16 = 0 :=
  sext_append_zeros_range (n := 6) (k := 4) _ (by decide) (by decide)

theorem immCLwsp_range (c : Half) : 0 ≤ (immCLwsp c).toInt ∧ (immCLwsp c).toInt ≤ 252 ∧ (immCLwsp c).toInt % 4 = 0 :=
  zext_append_zeros_range (n := 6) (k := 2) _ (by decide)

theorem immCLdsp_range (c : Half) : 0 ≤ (immCLdsp c).toInt ∧ (immCLdsp c).toInt ≤ 504 ∧ (immCLdsp c).toInt % 8 = 0 :=
  zext_append_zeros_range (n := 6) (k := 3) _ (by decide)

theorem immCSwsp_range (c : Half) : 0 ≤ (immCSwsp c).toInt ∧ (immCSwsp c).toInt ≤ 252 ∧ (immCSwsp c).toInt % 4 = 0 :=
  zext_append_zeros_range (n := 6) (k := 2) _ (by decide)

theorem immCSdsp_range (c : Half) : 0 ≤ (immCSdsp c).toInt ∧ (immCSdsp c).toInt ≤ 504 ∧ (immCSdsp c).toInt % 8 = 0 :=
  zext_append_zeros_range (n := 6) (k := 3) _ (by decide)

theorem immCIW_range (c : Half) : 0 ≤ (immCIW c).toInt ∧ (immCIW c).toInt ≤ 1020 ∧ (immCIW c).toInt % 4 = 0 :=
  zext_append_zeros_range (n := 8) (k := 2) _ (by decide)

theorem immCW_range (c : Half) : 0 ≤ (immCW c).toInt ∧ (immCW c).toInt ≤ 124 ∧ (immCW c).toInt % 4 = 0 :=
  zext_append_zeros_range (n := 5) (k := 2) _ (by decide)

theorem immCD_range (c : Half) : 0 ≤ (immCD c).toInt ∧ (immCD c).toInt ≤ 248 ∧ (immCD c).toInt % 8 = 0 :=
  zext_append_zeros_range (n := 5) (k := 3) _ (by decide)

theorem immCB_range (c : Half) : -256 ≤ (immCB c).toInt ∧ (immCB c).toInt ≤ 254 ∧ (immCB c).toInt % 2 = 0 :=
  sext_append_zeros_range (n := 8) (k := 1) _ (by decide) (by decide)

theorem immCJ_range (c : Half) : -2048 ≤ (immCJ c).toInt ∧ (immCJ c).toInt ≤ 2046 ∧ (immCJ c).toInt % 2 = 0 :=
  sext_append_zeros_range (n := 11) (k := 1) _ (by decide) (by decide)

theorem immCLui_extractLsb_low (c : Half) : (immCLui c).extractLsb 11 0 = 0#12 := eq_of_beq (immCLui_low c)

/-! ## The words that an earlier entry takes (R81) -/

/-- Two instructions of one word have one meaning: the edge with that word. -/
theorem encode_eq_and_exec_eq {i j : Instr} (h : encode i = encode j) : encode i = encode j ∧ ∀ s, exec i s = exec j s :=
  ⟨h, fun s => by rw [exec_eq, exec_eq, h]⟩

/-- The immediate that C.ADDI16SP reads of the word of C.LUI with rd = 2 and `imm` (R121, R122). -/
def addi16spOfLui (imm : Word) : Word :=
  sext 10 (imm.extractLsb 17 17 ++ imm.extractLsb 14 13 ++ imm.extractLsb 15 15 ++ imm.extractLsb 12 12 ++ imm.extractLsb 16 16 ++ 0#4)

/-- C.ADDI16SP lays out each bit of that immediate where C.LUI has it. -/
theorem encode_cLui_two (imm : Word) : encode (.cLui 2 imm) = encode (.cAddi16sp (addi16spOfLui imm)) := by
  apply BitVec.eq_of_getLsbD_eq
  intro i hi
  interval_cases i <;> simp only [encode, encCI, compressed, addi16spOfLui, sext, BitVec.getLsbD_append, BitVec.getLsbD_extractLsb,
    BitVec.getLsbD_signExtend] <;> simp

theorem matchFmt_of_firstRow {x : XLen} {w : Word} {n : Nat} {r : TableRow} (h : FirstRow x w n r) :
    matchFmt (referenceRom x) w = tagCode r.tag :=
  matchFmt_of_firstMatch (firstMatch_row h.row h.admits h.hit h.first) (rom_row h.row h.admits)

theorem tagCode_injective {t t' : Tag} (h : tagCode t = tagCode t') : t = t' := by
  have ht := tagOfCode_tagCode t
  rw [h, tagOfCode_tagCode] at ht
  exact (Option.some.inj ht).symm

/-- A word to which a reference catalog gives a tag is first matched by a row of that tag, which makes a well-formed instruction of the
fields that the tag reads of it. -/
theorem exists_row_of_matchFmt {x : XLen} {w : Word} {t : Tag} (h : matchFmt (referenceRom x) w = tagCode t) (h0 : tagCode t ≠ 0) :
    ∃ (n : Nat) (r : TableRow), opcodeTable[n]? = some r ∧ r.tag = t ∧ WellFormed (r.make (tagFields t (truncWord w))) = true := by
  rcases decodeWord_cases x w with ⟨n, r, hr, -⟩ | ⟨hn, -⟩
  · obtain rfl := tagCode_injective ((matchFmt_of_firstRow hr).symm.trans h)
    exact ⟨n, r, hr.row, rfl, (wellFormed_of_firstRow hr).1⟩
  · exact absurd (h.symm.trans (matchFmt_of_no_hit (matchHit_eq_false_iff.mpr hn))) h0

/-- The numbers of the rows of a tag. -/
def rowsOfTag (t : Tag) : List Nat := (List.range 208).filter fun n => opcodeTable[n]?.map TableRow.tag == some t

theorem mem_rowsOfTag {n : Nat} {r : TableRow} (h : opcodeTable[n]? = some r) : n ∈ rowsOfTag r.tag := by
  have hn : n < 208 := opcodeTable_length ▸ (List.getElem?_eq_some_iff.mp h).1
  simp [rowsOfTag, hn, h]

theorem rowsOfTag_cr : rowsOfTag .cr = [201, 203] := by decide +kernel

theorem rowsOfTag_ciLui : rowsOfTag .ciLui = [178] := by decide +kernel

/-- Words of C.MV and C.ADD alone come out with the tag CR: with rs2 = 0 they are those of C.JR, C.JALR and C.EBREAK. -/
theorem rs2_ne_zero_of_matchFmt_cr {x : XLen} {w : Word} (h : matchFmt (referenceRom x) w = 32) : w.extractLsb 6 2 ≠ 0#5 := by
  obtain ⟨n, r, hn, ht, hwf⟩ := exists_row_of_matchFmt (t := .cr) h (by decide)
  have hrow : n = 201 ∨ n = 203 := by simpa [ht, rowsOfTag_cr] using mem_rowsOfTag hn
  have hrs2 : fieldCRs2 (lowHalf (truncWord w)) ≠ 0#5 := by
    rcases hrow with rfl | rfl <;> cases hn <;> exact bne_iff_ne.mp hwf
  rwa [lowHalf_truncWord, fieldCRs2_lowHalf] at hrs2

/-- With rd = 2 the words of C.LUI are those of C.ADDI16SP. -/
theorem rd_ne_two_of_matchFmt_ciLui {x : XLen} {w : Word} (h : matchFmt (referenceRom x) w = 35) : w.extractLsb 11 7 ≠ 2#5 := by
  obtain ⟨n, r, hn, ht, hwf⟩ := exists_row_of_matchFmt (t := .ciLui) h (by decide)
  obtain rfl : n = 178 := by simpa [ht, rowsOfTag_ciLui] using mem_rowsOfTag hn
  cases hn
  have hrd : fieldCRd (lowHalf (truncWord w)) ≠ 2#5 := bne_iff_ne.mp (Bool.and_eq_true_iff.mp hwf).2
  rwa [lowHalf_truncWord, fieldCRd_lowHalf] at hrd

/-! ## Register fields (R116, R117) -/

/-! The two 3-bit register fields name x8 to x15. -/
theorem fieldCHigh_range (c : Half) : 8 ≤ (fieldCHigh c).toNat ∧ (fieldCHigh c).toNat ≤ 15 := rp_range _

theorem fieldCLow_range (c : Half) : 8 ≤ (fieldCLow c).toNat ∧ (fieldCLow c).toNat ≤ 15 := rp_range _

theorem rp_toNat (x : BitVec 3) : (rp x).toNat = 8 + x.toNat := by revert x; decide

/-- Every port is gated by its bit of the code's field-valid vector (R95). -/
theorem exists_fieldsOf_eq_gateFields (c : Code) (w : Word) : ∃ v, fieldsOf c w = gateFields (fvalidOf c) v := by
  cases ht : tagOfCode c with
  | none => exact ⟨{}, by rw [fieldsOf_of_reserved ht, fvalidOf_of_reserved ht]; rfl⟩
  | some t =>
    obtain rfl := tagCode_of_tagOfCode ht
    exact ⟨tagValues t w, by rw [fieldsOf_tagCode, fvalidOf_tagCode, tagFields]⟩

theorem rd_of_not_valid {c : Code} (h : (fvalidOf c).getLsbD 0 = false) (w : Word) : (fieldsOf c w).rd = 0 := by
  obtain ⟨v, hv⟩ := exists_fieldsOf_eq_gateFields c w
  rw [hv]
  exact if_neg (Bool.eq_false_iff.mp h)

theorem rs1_of_not_valid {c : Code} (h : (fvalidOf c).getLsbD 1 = false) (w : Word) : (fieldsOf c w).rs1 = 0 := by
  obtain ⟨v, hv⟩ := exists_fieldsOf_eq_gateFields c w
  rw [hv]
  exact if_neg (Bool.eq_false_iff.mp h)

theorem rs2_of_not_valid {c : Code} (h : (fvalidOf c).getLsbD 2 = false) (w : Word) : (fieldsOf c w).rs2 = 0 := by
  obtain ⟨v, hv⟩ := exists_fieldsOf_eq_gateFields c w
  rw [hv]
  exact if_neg (Bool.eq_false_iff.mp h)

/-- The codes of the tags with a combined field: CR, CI, CI_SH, CA, CB_SH, CB_ANDI. -/
theorem fvalidOf_combined : ∀ c ∈ ([32, 34, 37, 47, 49, 50] : List Code),
    (fvalidOf c).getLsbD 0 = true ∧ (fvalidOf c).getLsbD 1 = false := by decide

/-- The codes of the tags with an implicit base x2: CIW, CI_LWSP, CI_LDSP, CSS_SWSP, CSS_SDSP. -/
theorem fvalidOf_implicitBase : ∀ c ∈ ([42, 38, 39, 40, 41] : List Code), (fvalidOf c).getLsbD 1 = false := by decide

/-- The codes of CI_ADDI16SP and CJ, whose registers are all implicit. -/
theorem fvalidOf_implicitRegisters : ∀ c ∈ ([36, 51] : List Code),
    (fvalidOf c).getLsbD 0 = false ∧ (fvalidOf c).getLsbD 1 = false := by decide

/-- Settles O35: a 3-bit field comes out through `rp`, and a port is 0 where the field-valid bit of its tag is. -/
theorem compressedRegisterFields : Obligations.CompressedRegisterFields := by
  refine ⟨fun x => ⟨rp_toNat x, rp_range x⟩, fun w => ?remapped, fun c hc => ?combined, fun c hc => ?implicitBase,
    fun c hc => ?implicitRegisters, rfl, rs2_of_not_valid rfl, rfl, rd_of_not_valid rfl⟩
  case remapped =>
    have hhigh := fieldCHigh_lowHalf w
    have hlow := fieldCLow_lowHalf w
    simp only [List.forall_mem_cons]
    exact ⟨hlow, ⟨⟨hlow, hhigh⟩, ⟨hlow, hhigh⟩, nofun⟩, ⟨⟨hlow, hhigh⟩, ⟨hlow, hhigh⟩, nofun⟩, hhigh, hlow, hhigh, hhigh, hhigh⟩
  case combined =>
    obtain ⟨hrd, hrs1⟩ := fvalidOf_combined c hc
    exact ⟨hrd, hrs1, rs1_of_not_valid hrs1⟩
  case implicitBase =>
    have hrs1 := fvalidOf_implicitBase c hc
    exact ⟨hrs1, rs1_of_not_valid hrs1⟩
  case implicitRegisters =>
    obtain ⟨hrd, hrs1⟩ := fvalidOf_implicitRegisters c hc
    exact ⟨hrd, hrs1, fun w => ⟨rd_of_not_valid hrd w, rs1_of_not_valid hrs1 w⟩⟩

/-! ## The tags (R118 to R137) -/

/-- Settles O50: a zero rs2 field makes the words of C.MV and C.ADD those of C.JR, C.JALR and C.EBREAK (R81). -/
theorem compressedRegisterTagsComplete : Obligations.CompressedRegisterTagsComplete := by
  refine ⟨fun w => ?fieldsCr, fun rd rs2 h => ?entriesCr, fun rd => encode_eq_and_exec_eq rfl, fun rd => encode_eq_and_exec_eq rfl,
    wordIs_of_closed, wordIs_of_closed, fun x w => rs2_ne_zero_of_matchFmt_cr, fun w => ?fieldsCrJr, fun rs1 => inBoth_of rfl,
    fun rs1 h => inBoth_of (bne_iff_ne.mpr h), encode_eq_and_exec_eq rfl, wordIs_of_closed, wordIs_of_closed, wordIs_of_closed,
    wordIs_of_closed⟩
  case fieldsCr =>
    have hF : fieldsOf 32 w = _ := (fieldsOf_tagCode .cr w).trans (Fields.ofCR (fieldCRd_lowHalf w) (fieldCRs2_lowHalf w))
    exact ⟨fvalidOf_tagCode .cr, hF, congrArg Fields.rs1 hF⟩
  case entriesCr =>
    have hwf := bne_iff_ne.mpr h
    exact ⟨inBoth_of hwf, inBoth_of hwf⟩
  case fieldsCrJr => exact ⟨fvalidOf_tagCode .crJr, (fieldsOf_tagCode .crJr w).trans (Fields.ofCRJR (fieldCRd_lowHalf w))⟩

/-- Settles O51: C.ADDI with rd = 0 and imm = 0 is C.NOP, and C.LUI with rd = 2 is C.ADDI16SP (R81). -/
theorem compressedImmediateTagsComplete : Obligations.CompressedImmediateTagsComplete := by
  refine ⟨fun w => ?fieldsCi, fun rd imm h hne => ?cAddi, fun rd imm h => ⟨in64_of h, inBoth_of h⟩, encode_eq_and_exec_eq rfl,
    wordIs_of_closed, wordIs_of_closed, wordIs_of_closed, wordIs_of_closed, wordIs_of_closed, wordIs_of_closed,
    fun w => ?fieldsCiLui, fun rd imm h h0 hne => ?cLui, fun imm _ _ => encode_eq_and_exec_eq (encode_cLui_two imm),
    wordIs_of_closed, wordIs_of_closed, wordIs_of_closed, fun x w => rd_ne_two_of_matchFmt_ciLui⟩
  case fieldsCi =>
    have hF : fieldsOf 34 w = _ := (fieldsOf_tagCode .ci w).trans (Fields.ofCI (fieldCRd_lowHalf w) (immCI_lowHalf w))
    obtain ⟨hmin, hmax⟩ := immCI_range (lowHalf w)
    exact ⟨fvalidOf_tagCode .ci, hF, hmin, hmax, congrArg Fields.rs1 hF⟩
  case cAddi => exact inBoth_of (wellFormed_cAddi h (not_and_or.mp hne))
  case fieldsCiLui =>
    have hF : fieldsOf 35 w = _ := (fieldsOf_tagCode .ciLui w).trans (Fields.ofCILUI (fieldCRd_lowHalf w) (immCLui_lowHalf w))
    exact ⟨fvalidOf_tagCode .ciLui, hF, immCLui_extractLsb_low (lowHalf w)⟩
  case cLui => exact inBoth_of (and_intro (and_intro h h0) (bne_iff_ne.mpr hne))

/-- Settles O52: at XLEN=32 bit 12 of C.SLLI is a literal 0, so that no entry takes a shift by 32 or more (R64). -/
theorem compressedStackAdjustAndShiftComplete : Obligations.CompressedStackAdjustAndShiftComplete := by
  refine ⟨fun w => ?fieldsAdd, fun imm h h0 => inBoth_of (and_intro h h0), wordIs_of_closed, wordIs_of_closed, wordIs_of_closed,
    wordIs_of_closed, wordIs_of_closed, fun w => ?fieldsShift, fun rd shamt h => in32_of h, fun rd shamt => in64_of rfl,
    compressedLeftShift_bit12_noMatch _ (by decide) (by decide) (by decide), wordIs_of_closed, wordIs_of_closed⟩
  case fieldsAdd =>
    have hF : fieldsOf 36 w = _ := (fieldsOf_tagCode .ciAddi16sp w).trans (Fields.ofCIADDI16SP (immCAddi16sp_lowHalf w))
    obtain ⟨hmin, hmax, hmod⟩ := immCAddi16sp_range (lowHalf w)
    exact ⟨fvalidOf_tagCode .ciAddi16sp, hF, hmin, hmax, hmod, congrArg Fields.rd hF⟩
  case fieldsShift =>
    have hF : fieldsOf 37 w = _ := (fieldsOf_tagCode .ciSh w).trans (Fields.ofCISH (fieldCRd_lowHalf w) (shamtC_lowHalf w))
    exact ⟨fvalidOf_tagCode .ciSh, hF, congrArg Fields.rs1 hF⟩

/-- Settles O53: the base x2 is implicit, so that rs1 is not driven. -/
theorem compressedStackLoadTagsComplete : Obligations.CompressedStackLoadTagsComplete := by
  refine ⟨fun w => ?fieldsW, fun rd imm h h0 => ?entriesW, wordIs_of_closed, wordIs_of_closed, wordIs_of_closed,
    fun w => ?fieldsD, fun rd imm h h0 => ?entriesD, wordIs_of_closed, wordIs_of_closed, wordIs_of_closed⟩
  case fieldsW =>
    have hF : fieldsOf 38 w = _ := (fieldsOf_tagCode .ciLwsp w).trans (Fields.ofCILWSP (fieldCRd_lowHalf w) (immCLwsp_lowHalf w))
    obtain ⟨hmin, hmax, hmod⟩ := immCLwsp_range (lowHalf w)
    exact ⟨fvalidOf_tagCode .ciLwsp, hF, hmin, hmax, hmod, congrArg Fields.rs1 hF⟩
  case entriesW => exact ⟨inBoth_of (and_intro h h0), in32_of (and_intro h h0)⟩
  case fieldsD =>
    have hF : fieldsOf 39 w = _ := (fieldsOf_tagCode .ciLdsp w).trans (Fields.ofCILDSP (fieldCRd_lowHalf w) (immCLdsp_lowHalf w))
    obtain ⟨hmin, hmax, hmod⟩ := immCLdsp_range (lowHalf w)
    exact ⟨fvalidOf_tagCode .ciLdsp, hF, hmin, hmax, hmod, congrArg Fields.rs1 hF⟩
  case entriesD => exact ⟨inBoth_of (and_intro h h0), in64_of (and_intro h h0)⟩

/-- Settles O54: the base x2 is implicit, so that rs1 is not driven. -/
theorem compressedStackStoreTagsComplete : Obligations.CompressedStackStoreTagsComplete := by
  refine ⟨fun w => ?fieldsW, fun rs2 imm h h0 => ?entriesW, wordIs_of_closed, wordIs_of_closed,
    fun w => ?fieldsD, fun rs2 imm h h0 => ?entriesD, wordIs_of_closed, wordIs_of_closed⟩
  case fieldsW =>
    have hF : fieldsOf 40 w = _ := (fieldsOf_tagCode .cssSwsp w).trans (Fields.ofCSSSWSP (fieldCRs2_lowHalf w) (immCSwsp_lowHalf w))
    obtain ⟨hmin, hmax, hmod⟩ := immCSwsp_range (lowHalf w)
    exact ⟨fvalidOf_tagCode .cssSwsp, hF, hmin, hmax, hmod, congrArg Fields.rs1 hF⟩
  case entriesW => exact ⟨inBoth_of (and_intro h h0), in32_of (and_intro h h0)⟩
  case fieldsD =>
    have hF : fieldsOf 41 w = _ := (fieldsOf_tagCode .cssSdsp w).trans (Fields.ofCSSSDSP (fieldCRs2_lowHalf w) (immCSdsp_lowHalf w))
    obtain ⟨hmin, hmax, hmod⟩ := immCSdsp_range (lowHalf w)
    exact ⟨fvalidOf_tagCode .cssSdsp, hF, hmin, hmax, hmod, congrArg Fields.rs1 hF⟩
  case entriesD => exact ⟨inBoth_of (and_intro h h0), in64_of (and_intro h h0)⟩

/-- Settles O55: C.ADDI4SPN names x8 to x15 and leaves its base x2 implicit. -/
theorem compressedWideImmediateTagCompletes : Obligations.CompressedWideImmediateTagCompletes := by
  refine ⟨fun w => ?fields, fun rd imm hrd h h0 => inBoth_of (and_intro (and_intro hrd h) h0), wordIs_of_closed, wordIs_of_closed,
    wordIs_of_closed⟩
  case fields =>
    have hF : fieldsOf 42 w = _ := (fieldsOf_tagCode .ciw w).trans (Fields.ofCIW (fieldCLow_lowHalf w) (immCIW_lowHalf w))
    obtain ⟨hmin, hmax, hmod⟩ := immCIW_range (lowHalf w)
    obtain ⟨hrdmin, hrdmax⟩ := fieldCLow_range (lowHalf w)
    exact ⟨fvalidOf_tagCode .ciw, hF, hmin, hmax, hmod, hrdmin, hrdmax, congrArg Fields.rs1 hF⟩

/-- Settles O56: a load has its second register on rd and a store on rs2; word and doubleword forms differ in the immediate. -/
theorem compressedLoadStoreTagsComplete : Obligations.CompressedLoadStoreTagsComplete := by
  refine ⟨fun w => ?loadW, fun rd rs1 imm hrd hrs1 h h0 => ?entriesLoadW, wordIs_of_closed,
    fun w => ?loadD, fun rd rs1 imm hrd hrs1 h h0 => ?entriesLoadD, wordIs_of_closed, wordIs_of_closed,
    fun w => ?storeW, fun rs1 rs2 imm hrs1 hrs2 h h0 => ?entriesStoreW, wordIs_of_closed,
    fun w => ?storeD, fun rs1 rs2 imm hrs1 hrs2 h h0 => ?entriesStoreD, wordIs_of_closed, wordIs_of_closed⟩
  case loadW =>
    have hF := (fieldsOf_tagCode .clW w).trans (Fields.ofCLW (fieldCLow_lowHalf w) (fieldCHigh_lowHalf w) (immCW_lowHalf w))
    obtain ⟨hmin, hmax, hmod⟩ := immCW_range (lowHalf w)
    obtain ⟨hrdmin, hrdmax⟩ := fieldCLow_range (lowHalf w)
    exact ⟨fvalidOf_tagCode .clW, hF, hmin, hmax, hmod, hrdmin, hrdmax, fieldCHigh_range _⟩
  case entriesLoadW =>
    have hwf := and_intro (and_intro (and_intro hrd hrs1) h) h0
    exact ⟨inBoth_of hwf, in32_of hwf⟩
  case loadD =>
    have hF := (fieldsOf_tagCode .clD w).trans (Fields.ofCLD (fieldCLow_lowHalf w) (fieldCHigh_lowHalf w) (immCD_lowHalf w))
    obtain ⟨hmin, hmax, hmod⟩ := immCD_range (lowHalf w)
    obtain ⟨hrdmin, hrdmax⟩ := fieldCLow_range (lowHalf w)
    exact ⟨fvalidOf_tagCode .clD, hF, hmin, hmax, hmod, hrdmin, hrdmax, fieldCHigh_range _⟩
  case entriesLoadD =>
    have hwf := and_intro (and_intro (and_intro hrd hrs1) h) h0
    exact ⟨inBoth_of hwf, in64_of hwf⟩
  case storeW =>
    have hF := (fieldsOf_tagCode .csW w).trans (Fields.ofCSW (fieldCHigh_lowHalf w) (fieldCLow_lowHalf w) (immCW_lowHalf w))
    obtain ⟨hmin, hmax, hmod⟩ := immCW_range (lowHalf w)
    obtain ⟨hrs1min, hrs1max⟩ := fieldCHigh_range (lowHalf w)
    exact ⟨fvalidOf_tagCode .csW, hF, hmin, hmax, hmod, hrs1min, hrs1max, fieldCLow_range _⟩
  case entriesStoreW =>
    have hwf := and_intro (and_intro (and_intro hrs1 hrs2) h) h0
    exact ⟨inBoth_of hwf, in32_of hwf⟩
  case storeD =>
    have hF := (fieldsOf_tagCode .csD w).trans (Fields.ofCSD (fieldCHigh_lowHalf w) (fieldCLow_lowHalf w) (immCD_lowHalf w))
    obtain ⟨hmin, hmax, hmod⟩ := immCD_range (lowHalf w)
    obtain ⟨hrs1min, hrs1max⟩ := fieldCHigh_range (lowHalf w)
    exact ⟨fvalidOf_tagCode .csD, hF, hmin, hmax, hmod, hrs1min, hrs1max, fieldCLow_range _⟩
  case entriesStoreD =>
    have hwf := and_intro (and_intro (and_intro hrs1 hrs2) h) h0
    exact ⟨inBoth_of hwf, in64_of hwf⟩

/-- Settles O57: rd is the combined operand, so that rs1 is not driven. -/
theorem compressedArithmeticTagCompletes : Obligations.CompressedArithmeticTagCompletes := by
  refine ⟨fun w => ?fields, fun rd rs2 hrd hrs2 => ?entries, wordIs_of_closed, wordIs_of_closed⟩
  case fields =>
    have hF : fieldsOf 47 w = _ := (fieldsOf_tagCode .ca w).trans (Fields.ofCA (fieldCHigh_lowHalf w) (fieldCLow_lowHalf w))
    obtain ⟨hrdmin, hrdmax⟩ := fieldCHigh_range (lowHalf w)
    obtain ⟨hrs2min, hrs2max⟩ := fieldCLow_range (lowHalf w)
    exact ⟨fvalidOf_tagCode .ca, hF, hrdmin, hrdmax, hrs2min, hrs2max, congrArg Fields.rs1 hF⟩
  case entries =>
    have hwf := and_intro hrd hrs2
    exact ⟨inBoth_of hwf, inBoth_of hwf, inBoth_of hwf, inBoth_of hwf, in64_of hwf, in64_of hwf⟩

/-- Settles O58: the right shifts have a bit-12 literal at XLEN=32 only, so that no entry there takes a shift by 32 or more (R64). -/
theorem compressedBranchAndShiftTagsComplete : Obligations.CompressedBranchAndShiftTagsComplete := by
  refine ⟨fun w => ?fieldsBranch, fun rs1 imm hrs1 h h0 => ?entriesBranch, wordIs_of_closed, wordIs_of_closed, wordIs_of_closed,
    wordIs_of_closed, fun w => ?fieldsShift, fun rd shamt hrd h => ?entriesShift32, fun rd shamt hrd => ?entriesShift64,
    compressedRightShift_bit12_noMatch _ (by decide) (by decide) (by decide) (by decide), wordIs_of_closed, wordIs_of_closed,
    wordIs_of_closed, fun w => ?fieldsAndi, fun rd imm hrd h => inBoth_of (and_intro hrd h), wordIs_of_closed⟩
  case fieldsBranch =>
    have hF := (fieldsOf_tagCode .cbBr w).trans (Fields.ofCBBR (fieldCHigh_lowHalf w) (immCB_lowHalf w))
    obtain ⟨hmin, hmax, hmod⟩ := immCB_range (lowHalf w)
    exact ⟨fvalidOf_tagCode .cbBr, hF, hmin, hmax, hmod, fieldCHigh_range _⟩
  case entriesBranch =>
    have hwf := and_intro (and_intro hrs1 h) h0
    exact ⟨inBoth_of hwf, inBoth_of hwf⟩
  case fieldsShift =>
    have hF : fieldsOf 49 w = _ := (fieldsOf_tagCode .cbSh w).trans (Fields.ofCBSH (fieldCHigh_lowHalf w) (shamtC_lowHalf w))
    obtain ⟨hrdmin, hrdmax⟩ := fieldCHigh_range (lowHalf w)
    exact ⟨fvalidOf_tagCode .cbSh, hF, hrdmin, hrdmax, congrArg Fields.rs1 hF⟩
  case entriesShift32 => exact ⟨in32_of (and_intro hrd h), in32_of (and_intro hrd h)⟩
  case entriesShift64 => exact ⟨in64_of hrd, in64_of hrd⟩
  case fieldsAndi =>
    have hF : fieldsOf 50 w = _ := (fieldsOf_tagCode .cbAndi w).trans (Fields.ofCBANDI (fieldCHigh_lowHalf w) (immCI_lowHalf w))
    obtain ⟨hmin, hmax⟩ := immCI_range (lowHalf w)
    obtain ⟨hrdmin, hrdmax⟩ := fieldCHigh_range (lowHalf w)
    exact ⟨fvalidOf_tagCode .cbAndi, hF, hmin, hmax, hrdmin, hrdmax, congrArg Fields.rs1 hF⟩

/-- Settles O59: at XLEN=64 the words of C.JAL are those of C.ADDIW. -/
theorem compressedJumpTagCompletes : Obligations.CompressedJumpTagCompletes := by
  refine ⟨fun w => ?fields, fun imm h h0 => ?entries, wordIs_of_closed, wordIs_of_closed, wordIs_of_closed, wordIs_of_closed,
    wordIs_of_closed, wordIs_of_closed⟩
  case fields =>
    have hF : fieldsOf 51 w = _ := (fieldsOf_tagCode .cj w).trans (Fields.ofCJ (immCJ_lowHalf w))
    obtain ⟨hmin, hmax, hmod⟩ := immCJ_range (lowHalf w)
    exact ⟨fvalidOf_tagCode .cj, hF, hmin, hmax, hmod, congrArg Fields.rd hF⟩
  case entries => exact ⟨in32_of (and_intro h h0), inBoth_of (and_intro h h0)⟩

end Sys2Proof.Proofs
end

section
/-! # O24, O18: the reference catalogs

Decoding a word is the converse of encoding it (`decodeWord_encode`), and the first two bytes of an instruction tell how many it has,
so that decoding bytes is decoding the word (R40). What a build keeps beside its ROM, the mnemonics, are those of its definitions with
the 32-bit modules first (R59, R75); the reference modules stand in that order already (R138). -/

namespace Sys2Proof.Proofs

open Sys2Proof.Machine Sys2Proof.Laws

/-! ## The bytes of a word (R40, R85) -/

/-- The four bytes of a word make it again. -/
theorem wordOfBytes_extractLsb (w : Word) :
    wordOfBytes (w.extractLsb 7 0) (w.extractLsb 15 8) (w.extractLsb 23 16) (w.extractLsb 31 24) = w := by
  apply BitVec.eq_of_getLsbD_eq
  intro i hi
  simp only [wordOfBytes, BitVec.getLsbD_append, BitVec.getLsbD_extractLsb]
  grind

/-- The first two bytes of a word, with zeros above them, are its low half. -/
theorem wordOfBytes_extractLsb_zero (w : Word) :
    wordOfBytes (w.extractLsb 7 0) (w.extractLsb 15 8) 0#8 0#8 = compressed (lowHalf w) := by
  apply BitVec.eq_of_getLsbD_eq
  intro i hi
  simp only [wordOfBytes, compressed, lowHalf, BitVec.getLsbD_append, BitVec.getLsbD_extractLsb]
  grind

/-- Four bytes whose first two say so are a 32-bit instruction. -/
theorem decodeBytes_of_len4 (x : XLen) {b0 b1 : Byte} (b2 b3 : Byte) (rest : List Byte) (h : isLen4 (wordOfBytes b0 b1 0#8 0#8) = true) :
    decodeBytes x (b0 :: b1 :: b2 :: b3 :: rest) = (decodeWord x (wordOfBytes b0 b1 b2 b3)).map (·, rest) := by
  simp only [decodeBytes, h, if_true]

/-- Otherwise the first two bytes alone are the instruction. -/
theorem decodeBytes_of_len2 (x : XLen) {b0 b1 : Byte} (rest : List Byte) (h : isLen4 (wordOfBytes b0 b1 0#8 0#8) = false) :
    decodeBytes x (b0 :: b1 :: rest) = (decodeWord x (wordOfBytes b0 b1 0#8 0#8)).map (·, rest) := by
  simp only [decodeBytes, h, Bool.false_eq_true, if_false]

/-- Decoding the bytes of an instruction is decoding its word, and leaves the bytes after them. -/
theorem decodeBytes_encodeBytes (x : XLen) (i : Instr) (rest : List Byte) :
    decodeBytes x (encodeBytes i ++ rest) = (decodeWord x (encode i)).map (·, rest) := by
  have hlow := wordOfBytes_extractLsb_zero (encode i)
  have hlen : isLen4 (wordOfBytes ((encode i).extractLsb 7 0) ((encode i).extractLsb 15 8) 0#8 0#8) = isLen4 (encode i) := by
    rw [hlow, isLen4_compressed_lowHalf]
  cases h : isLen4 (encode i) with
  | true =>
    simp only [encodeBytes, h, if_true, List.cons_append, List.nil_append]
    rw [decodeBytes_of_len4 x _ _ _ (hlen.trans h), wordOfBytes_extractLsb]
  | false =>
    simp only [encodeBytes, h, Bool.false_eq_true, if_false, List.cons_append, List.nil_append]
    rw [decodeBytes_of_len2 x _ (hlen.trans h), hlow, ← truncWord_half h, decodeWord_truncWord]

/-- Settles O24: the first match of an instruction's word is its own row, whose tag reads back the operands. -/
theorem decodeOfEncodeIsTheInstruction : Obligations.DecodeOfEncodeIsTheInstruction := fun x i h hx =>
  ⟨decodeWord_encode h hx, fun rest => by rw [decodeBytes_encodeBytes, decodeWord_encode h hx]; rfl⟩

/-! ## The mnemonics of a build (R59, R71, R75) -/

/-- The width class of a compiled entry is that of its definition, and its mnemonic is the last word of the layout string. -/
theorem w16_and_mnemonic_of_compile {d : Definition} {e : Entry} {n : String} (h : compile d = .ok (e, n)) :
    e.w16 = (d.width == 16) ∧ n = layoutMnemonic d.layout := by
  unfold compile at h
  split at h
  case isTrue => cases h -- M7
  split at h
  case isTrue => cases h -- M8
  simp only at h
  split at h
  case h_1 => cases h -- M5, no token
  case h_2 last hlast =>
    split at h
    case isTrue => cases h -- M5
    split at h
    case h_1 => cases h -- M2, M3, M4
    split at h
    case isTrue => cases h -- M1
    split at h
    case isTrue => cases h -- M6
    cases h
    rw [layoutMnemonic, hlast]
    exact ⟨rfl, rfl⟩

/-- The mnemonics of the entries of a width class are those of the definitions of that class, in order. -/
theorem filter_map_mnemonic (p : Bool → Bool) : ∀ (ds : List Definition) (l : List (Entry × String)),
    ds.map compile = l.map Except.ok →
      (l.filter fun e => p e.1.w16).map Prod.snd = (ds.filter fun d => p (d.width == 16)).map (layoutMnemonic ·.layout)
  | [], [], _ => rfl
  | d :: ds, (e, n) :: l, h => by
    obtain ⟨hd, hds⟩ := List.cons.inj h
    obtain ⟨hw, hn⟩ := w16_and_mnemonic_of_compile hd
    have ih := filter_map_mnemonic p ds l hds
    cases hp : p (d.width == 16) <;> simp [hw, hn, hp, ih]

/-- The mnemonics of a module's definitions. -/
def moduleMnemonics (m : CatalogModule) : List String := m.defs.map (layoutMnemonic ·.layout)

/-- A module has one width, so that a width class takes all of its definitions or none. -/
theorem filter_defs (q : Nat → Bool) (m : CatalogModule) : (m.defs.filter fun d => q d.width) = if q m.width then m.defs else [] := by
  split
  case isTrue hq => exact List.filter_eq_self.mpr fun d hd => by rwa [(width_and_moduleName_of_mem_defs hd).1]
  case isFalse hq => exact List.filter_eq_nil_iff.mpr fun d hd => by rwa [(width_and_moduleName_of_mem_defs hd).1]

theorem filter_flatMap_defs (q : Nat → Bool) (ms : List CatalogModule) :
    ((ms.flatMap CatalogModule.defs).filter fun d => q d.width) = (ms.filter fun m => q m.width).flatMap CatalogModule.defs := by
  induction ms with
  | nil => rfl
  | cons m ms ih =>
    rw [List.flatMap_cons, List.filter_append, filter_defs, ih]
    cases hq : q m.width <;> simp [hq]

/-- The mnemonics of a build are those of its modules, the 32-bit ones first. -/
theorem names_of_build {ms : List CatalogModule} {c : Catalog} (h : build ms = .ok c) :
    c.names = ((ms.filter fun m => !(m.width == 16)) ++ ms.filter fun m => m.width == 16).flatMap moduleMnemonics := by
  obtain ⟨l, hl, -, hnames, -⟩ := (build_ok_iff_map_compile ms c).mp h
  rw [hnames, List.map_append, filter_map_mnemonic (fun b => !b) _ l hl, filter_map_mnemonic (fun b => b) _ l hl,
    filter_flatMap_defs fun n => !(n == 16), filter_flatMap_defs fun n => n == 16, ← List.map_append, ← List.flatMap_append,
    List.map_flatMap]
  rfl

/-! ## The reference build (R138) -/

/-- The modules stand in the order of composition already. -/
theorem filter_width_referenceModules (x : XLen) : ((referenceModules x).filter fun m => !(m.width == 16)) ++
    (referenceModules x).filter (fun m => m.width == 16) = referenceModules x := rfl

theorem build_referenceModules (x : XLen) : ∃ c, build (referenceModules x) = .ok c ∧ c.entries = referenceRom x ∧
    c.names = referenceNames x ∧ c.extSet = 0x1C00112D := by
  obtain ⟨c, hc, -⟩ := exists_build_referenceModules x
  obtain ⟨_, -, -, -, hext, -⟩ := (build_ok_iff _ c).mp hc
  have he := build_referenceModules_entries x
  rw [hc] at he
  refine ⟨c, hc, Except.ok.inj he, ?_, hext.trans (extensionSet_referenceModules x)⟩
  rw [names_of_build hc, filter_width_referenceModules]
  rfl

/-- In a ROM of `n` 32-bit entries and then `m` 16-bit ones, the latter are those from index `n` on. -/
theorem w16_iff_of_map_w16 {rom : List Entry} {n m : Nat} (h : rom.map Entry.w16 = List.replicate n false ++ List.replicate m true)
    (k : Nat) (e : Entry) (he : rom[k]? = some e) : e.w16 = true ↔ n ≤ k := by
  have hk : (List.replicate n false ++ List.replicate m true)[k]? = some e.w16 := by rw [← h, List.getElem?_map, he]; rfl
  rcases Nat.lt_or_ge k n with hlt | hge
  · rw [List.getElem?_append_left (by simpa using hlt)] at hk
    simp [List.eq_of_mem_replicate (List.mem_of_getElem? hk), hlt]
  · rw [List.getElem?_append_right (by simpa using hge)] at hk
    simp [List.eq_of_mem_replicate (List.mem_of_getElem? hk), hge]

theorem w16_referenceRom_rv32 : (referenceRom .rv32).map Entry.w16 = List.replicate 122 false ++ List.replicate 35 true := by
  decide +kernel

theorem w16_referenceRom_rv64 : (referenceRom .rv64).map Entry.w16 = List.replicate 160 false ++ List.replicate 37 true := by
  decide +kernel

theorem rv64_modules_empty_on_rv32 : ∀ m ∈ referenceModules .rv32, m.name ∈ ["RV64I", "RV64M", "RV64A", "RV64F", "RV64D"] →
    m.defs = [] := by decide +kernel

/-- Settles O18: the build makes the entries, its mnemonics follow from the order of the modules; counts and filters are evaluated. -/
theorem referenceCatalogsBuild : Obligations.ReferenceCatalogsBuild :=
  ⟨fun x _ => ⟨rfl, rfl, build_referenceModules x⟩, rv64_modules_empty_on_rv32, referenceRom_length_rv32, referenceRom_length_rv64,
    w16_iff_of_map_w16 w16_referenceRom_rv32, w16_iff_of_map_w16 w16_referenceRom_rv64⟩

end Sys2Proof.Proofs
end

section
/-! # O13, O31: the consumer's contract

What the outputs show after two enabled edges is `decodeSlot` of the first edge's word, whatever the block held before and whatever word
the second edge presents (R165, R183), so what a consumer reads or computes from a slot follows from `decodeSlot` alone. The length of a
slot is that of its word, hit or not (R155), and the integer that a branch target stands for is a remainder modulo `2 ^ XLEN` (R161). -/

namespace Sys2Proof.Proofs

open Sys2Proof.Machine Sys2Proof.Laws

/-! ## The outputs after two enabled edges (R35, R165, R183) -/

theorem out_of_two_enabled_edges {a b : Ports} {s t u : State} (ha : a.enabled = true) (hb : b.enabled = true)
    (ht : stepWith a s = .next t) (hu : stepWith b t = .next u) : u.out = decodeSlot s.rom a.inValid a.inWord := by
  rw [stepWith_of_enabled hb] at hu
  cases hu
  rw [enabledEdge_out, stepWith_s1_of_enabled ha ht, decodeSlot]

theorem exists_two_enabled_edges {a b : Ports} (ha : a.enabled = true) (hb : b.enabled = true) (s : State) :
    ∃ t u, stepWith a s = .next t ∧ stepWith b t = .next u ∧ u.out = decodeSlot s.rom a.inValid a.inWord :=
  ⟨_, _, stepWith_of_enabled ha s, stepWith_of_enabled hb _,
    out_of_two_enabled_edges ha hb (stepWith_of_enabled ha s) (stepWith_of_enabled hb _)⟩

/-- `in_valid` reaches `out_valid` and nothing else (R35). -/
theorem decodeSlot_eq_with_valid (rom : List Entry) (v v' : Bool) (w : Word) :
    decodeSlot rom v w = { decodeSlot rom v' w with valid := v } := rfl

/-- Settles O13: both slots are the decode of one word under one ROM, and `in_valid` changes `out_valid` alone. -/
theorem sameWordSameOutputsAndBubblesDecode : Obligations.SameWordSameOutputsAndBubblesDecode := by
  refine ⟨fun s s' t t' u u' a a' b b' hrom ha ha' hb hb' hw hv ht hu ht' hu' => ?sameWord, fun s w b hb => ?bubble⟩
  case sameWord =>
    have hout : u.out = u'.out := by
      rw [out_of_two_enabled_edges ha hb ht hu, out_of_two_enabled_edges ha' hb' ht' hu', hrom, hv, hw]
    exact ⟨hout, fun lk x names address => congrArg (recordOf lk x names address) hout⟩
  case bubble =>
    obtain ⟨t, u, ht, hu, hout⟩ := exists_two_enabled_edges (a := ⟨false, true, false, w⟩) rfl hb s
    obtain ⟨t', u', ht', hu', hout'⟩ := exists_two_enabled_edges (a := ⟨false, true, true, w⟩) rfl hb s
    refine ⟨t, u, t', u', ht, hu, ht', hu', ?_, ?_⟩
    · rw [hout, hout', ← decodeSlot_eq_with_valid]
    · rw [hout', decodeSlot, extractSlot_valid, matchSlot_valid]

/-! ## Targets (R161, R162) -/

theorem branchTarget_eq_emod (x : XLen) (a : Nat) (imm : Word) :
    (branchTarget x a imm : Int) = (a + imm.toInt) % (2 ^ x.bits : Nat) :=
  Int.toNat_of_nonneg (Int.emod_nonneg _ (by positivity))

theorem branchTarget_lt (x : XLen) (a : Nat) (imm : Word) : branchTarget x a imm < 2 ^ x.bits := by
  rw [← Int.ofNat_lt, branchTarget_eq_emod]
  exact Int.emod_lt_of_pos _ (by positivity)

theorem branchTarget_modEq (x : XLen) (a : Nat) (imm : Word) :
    (branchTarget x a imm : Int) ≡ a + imm.toInt [ZMOD (2 ^ x.bits : Nat)] := by
  rw [branchTarget_eq_emod]
  exact Int.mod_modEq _ _

theorem two_dvd_two_pow_bits (x : XLen) : 2 ∣ 2 ^ x.bits := dvd_pow_self 2 (by cases x <;> decide)

/-- The modulus is even, so the target has the parity of the sum. -/
theorem branchTarget_even (x : XLen) (a : Nat) (imm : Word) (ha : a % 2 = 0) (himm : imm.toInt % 2 = 0) :
    branchTarget x a imm % 2 = 0 := by
  have h : (branchTarget x a imm : Int) % 2 = (a + imm.toInt) % 2 :=
    (branchTarget_modEq x a imm).of_dvd (mod_cast two_dvd_two_pow_bits x)
  omega

/-! ## The walk (R155) -/

/-- The length of a slot is read from the two low bits of its word, whether an entry matches or not. -/
theorem byteLength_decodeSlot (rom : List Entry) (v : Bool) (w : Word) :
    byteLength (decodeSlot rom v w) = if w.extractLsb 1 0 = 0b11#2 then 4 else 2 := by
  simp only [byteLength, decodeSlot, extractSlot_len4, matchSlot_len4, isLen4_iff]

/-- Settles O31: the target is a remainder modulo `2 ^ XLEN`, and the walk steps by the length of the word. -/
theorem branchTargetIsSumModuloWidth : Obligations.BranchTargetIsSumModuloWidth := by
  refine ⟨fun x a imm => ⟨branchTarget_lt x a imm, ?congruent, branchTarget_even x a imm⟩,
    fun lk x names rom fuel a b bytes => ?walk⟩
  case congruent => exact Int.emod_eq_zero_of_dvd (branchTarget_modEq x a imm).symm.dvd
  case walk =>
    intro w len
    rw [walkStream, byteLength_decodeSlot]

end Sys2Proof.Proofs
end

section
/-! # O14, O32: NoMatch, and a block that cannot be built

A word that no entry matches loads zeros into stage 1 beside its length class and the word (R88, R89), and tag NONE extracts zeros from
them (R98), so `decodeSlot` of the word is the NoMatch slot (R166). Elaboration has one outcome for each answer of its three questions in
turn: is there an XLEN of that width, are there modules for it, and do they build (R6, R140, R168). -/

namespace Sys2Proof.Proofs

open Sys2Proof.Machine Sys2Proof.Laws

/-! ## The NoMatch slot (R157, R166) -/

theorem extractorCode_zero (w : Word) : extractorCode 0#6 w = 0 := extractorCode_of_allowed (codeAllowed_zero _)

theorem fvalidOf_zero : fvalidOf 0 = 0 := fvalidOf_tagCode .none

/-- The zeros of a miss are tag NONE, which every width class may carry and which drives no field. -/
theorem decodeSlot_of_no_match {rom : List Entry} {w : Word} (v : Bool) (h : firstMatch rom w = none) :
    decodeSlot rom v w =
      { valid := v, len4 := isLen4 w, word := truncWord w, hit := false, index := 0, fmt := 0, fvalid := 0, fields := {} } := by
  rw [decodeSlot, matchSlot_miss_of v h, extractSlot, extractorCode_zero, fvalidOf_zero, fieldsOf_zero]
  rfl

theorem assemblyText_of_miss {o : Stage2} (h : o.hit = false) (lk : Lookup) (x : XLen) (names : List String) (a : Nat) :
    assemblyText lk x names a o = "illegal" := by
  rw [assemblyText, h, Bool.not_false, if_pos rfl]

/-- Settles O14: the slot is the decode of a word without a first match, and the next edge takes its own word under the same ROM. -/
theorem noMatchIsANormalResult : Obligations.NoMatchIsANormalResult := by
  intro s v w b hno hb
  obtain ⟨t, u, ht, hu, hout⟩ := exists_two_enabled_edges (a := ⟨false, true, v, w⟩) rfl hb s
  have hslot := hout.trans (decodeSlot_of_no_match v (firstMatch_eq_none_iff.mpr hno))
  obtain ⟨hrom, -⟩ := sameBlock_step ht
  refine ⟨t, u, ht, hu, hslot, ?next, assemblyText_of_miss (congrArg Stage2.hit hslot), ?length⟩
  case next => rw [stepWith_s1_of_enabled hb hu, hrom]
  case length => rw [hout, byteLength_decodeSlot]

/-! ## The outcomes of elaboration (R6, R140, R168) -/

theorem elaborate_of_build_ok {n : Nat} {x : XLen} {given : Option (List CatalogModule)} {ms : List CatalogModule} {c : Catalog}
    (hx : xlenOfWidth n = some x) (hms : modulesFor x given = some ms) (h : build ms = .ok c) :
    elaborate n given = .next (State.powerUp x c) := by
  simp only [elaborate, hx, hms, h]

theorem elaborate_of_build_error {n : Nat} {x : XLen} {given : Option (List CatalogModule)} {ms : List CatalogModule} {e : Malformed}
    (hx : xlenOfWidth n = some x) (hms : modulesFor x given = some ms) (h : build ms = .error e) :
    elaborate n given = .fault (.malformedDefinition e) := by
  simp only [elaborate, hx, hms, h]

theorem elaborate_of_no_modules {n : Nat} {x : XLen} {given : Option (List CatalogModule)} (hx : xlenOfWidth n = some x)
    (hms : modulesFor x given = none) : elaborate n given = .refused (.noReferenceCatalog n) := by
  simp only [elaborate, hx, hms]

theorem elaborate_of_no_xlen {n : Nat} (given : Option (List CatalogModule)) (hx : xlenOfWidth n = none) :
    elaborate n given = .refused (.noReferenceCatalog n) := by
  simp only [elaborate, hx]

theorem xlenOfWidth_eq_none {n : Nat} (h32 : n ≠ 32) (h64 : n ≠ 64) (h128 : n ≠ 128) : xlenOfWidth n = none := by
  unfold xlenOfWidth
  split
  · exact absurd rfl h32
  · exact absurd rfl h64
  · exact absurd rfl h128
  · rfl

/-- Without modules, an XLEN other than 128 gets its reference catalog (R138). -/
theorem elaborate_reference {n : Nat} {x : XLen} (hx : xlenOfWidth n = some x) (h128 : x ≠ .rv128) :
    ∃ c, elaborate n none = .next (State.powerUp x c) ∧ c.entries = referenceRom x ∧ c.extSet = referenceExtSet := by
  obtain ⟨c, hbuild, hentries, -, hext⟩ := build_referenceModules x
  exact ⟨c, elaborate_of_build_ok hx (if_neg h128) hbuild, hentries, hext⟩

/-! ## The first reset edge (R180, R182) -/

theorem stepWith_of_rst {p : Ports} (h : p.rst = true) (s : State) :
    stepWith p s = .next (resetEdge { s with ports := p, stimulus := [] }) := by
  rw [stepWith_eq, edgeWith_reset _ h]

/-- Settles O32: each clause is one outcome of elaboration, and a reset edge clears whatever the registers held at power-up. -/
theorem elaborationOutcomes : Obligations.ElaborationOutcomes := by
  refine ⟨fun n x ms hx => ⟨fun c hc => ?built, fun e he => elaborate_of_build_error hx rfl he⟩, fun n x hnx => ?reference,
    elaborate_of_no_modules (x := .rv128) rfl rfl,
    fun n given h32 h64 h128 => elaborate_of_no_xlen given (xlenOfWidth_eq_none h32 h64 h128)⟩
  case built => exact ⟨_, elaborate_of_build_ok hx rfl hc, rfl, rfl, rfl⟩
  case reference =>
    obtain ⟨hx, h128⟩ : xlenOfWidth n = some x ∧ x ≠ .rv128 := by
      rcases hnx with ⟨rfl, rfl⟩ | ⟨rfl, rfl⟩ <;> exact ⟨rfl, nofun⟩
    obtain ⟨c, helab, hentries, hext⟩ := elaborate_reference hx h128
    exact ⟨_, helab, rfl, hentries, hext, fun p hp => ⟨_, stepWith_of_rst hp _, rfl, rfl, hentries⟩⟩

end Sys2Proof.Proofs
end

section
/-! # O11: a word across stalls (R183)

A run alternates a clock edge with the move of the ports. Cut just before a move, a stretch of stalls costs its own length in steps,
writes no register and leaves the levels after it to be moved in, whether another level follows or none does. So one induction serves
the stalls before the second enabled edge and those after it. -/

namespace Sys2Proof.Proofs

open Sys2Proof.Machine Sys2Proof.Laws

theorem nextPorts_cons {s : State} {p : Ports} {ps : List Ports} (h : s.stimulus = p :: ps) :
    nextPorts s = { s with ports := p, stimulus := ps } := by
  rw [nextPorts, h]

theorem run_succ_of_enabled {s : State} (h : s.ports.enabled = true) (n : Nat) :
    Host.Core.run Sys2Proof.core (n + 1) s = Host.Core.run Sys2Proof.core n (nextPorts (enabledEdge s.ports.inWord s)) := by
  rw [run_succ, edgeWith_of_enabled _ h]

theorem run_succ_of_stalled {s : State} (h : s.ports.stalled = true) (n : Nat) :
    Host.Core.run Sys2Proof.core (n + 1) s = Host.Core.run Sys2Proof.core n (nextPorts s) := by
  rw [run_succ, edgeWith_of_stalled _ h]

/-- Stalls that stand next in the stimulus are taken up and nothing else changes; the ports keep the last of them until the move. -/
theorem run_of_stalls {hold rest : List Ports} (hstall : allStalled hold) (n : Nat) {s : State} (h : s.stimulus = hold ++ rest) :
    Host.Core.run Sys2Proof.core (hold.length + n) (nextPorts s) =
      Host.Core.run Sys2Proof.core n (nextPorts { s with ports := hold.getLastD s.ports, stimulus := rest }) := by
  induction hold generalizing s with
  | nil =>
    obtain rfl : s.stimulus = rest := h
    rw [List.length_nil, Nat.zero_add]
    rfl
  | cons q qs ih =>
    obtain ⟨hq, hqs⟩ := List.forall_mem_cons.mp hstall
    rw [nextPorts_cons h, List.length_cons, Nat.add_right_comm, run_succ_of_stalled hq, ih hqs rfl, List.getLastD_cons]

/-- An accepted word and the stalls after it: stage 1 holds the word's match, and the levels after the stalls are still to be moved in. -/
theorem run_of_enabled_of_stalls {s : State} {hold rest : List Ports} (hen : s.ports.enabled = true) (hstall : allStalled hold) (n : Nat)
    (h : s.stimulus = hold ++ rest) :
    Host.Core.run Sys2Proof.core (hold.length + n + 1) s =
      Host.Core.run Sys2Proof.core n
        (nextPorts { enabledEdge s.ports.inWord s with ports := hold.getLastD s.ports, stimulus := rest }) :=
  (run_succ_of_enabled hen _).trans (run_of_stalls hstall n h)

/-- A word accepted at an enabled edge is on the outputs once one more enabled edge has passed, with any stalls before it and after it. -/
theorem run_shows_decodeSlot {s : State} {hold hold' : List Ports} {p : Ports} (hen : s.ports.enabled = true)
    (h : s.stimulus = hold ++ p :: hold') (hhold : allStalled hold) (hp : p.enabled = true) (hhold' : allStalled hold') :
    ∃ t, Host.Core.run Sys2Proof.core (hold.length + hold'.length + 2) s = .next t ∧
      t.out = decodeSlot s.rom s.ports.inValid s.ports.inWord := by
  have first := run_of_enabled_of_stalls hen hhold (hold'.length + 1) h
  have second := run_of_enabled_of_stalls (s := { enabledEdge s.ports.inWord s with ports := p, stimulus := hold' }) hp hhold' 0
    (List.append_nil hold').symm
  refine ⟨_, first.trans second, ?_⟩
  rw [nextPorts_out, enabledEdge_out, enabledEdge_s1, decodeSlot]

theorem decodeSlot_eq (rom : List Entry) (v : Bool) (w : Word) : decodeSlot rom v w =
    { valid := v, len4 := isLen4 w, word := truncWord w, hit := matchHit rom w, index := matchIndex rom w,
      fmt := matchFmt rom w, fvalid := fvalidOf (extractorCode (matchFmt rom w) w),
      fields := fieldsOf (extractorCode (matchFmt rom w) w) (truncWord w) } := by
  simp only [decodeSlot, extractSlot, matchSlot, extractorCode_truncWord]

/-- Settles O11: two enabled edges with stalls between and after them show the decode of the first edge's word, and a stalled or a
reset edge is one step. -/
theorem pipelineTiming : Obligations.PipelineTiming := by
  refine ⟨fun s V W hold hold' p hports h hhold hp hhold' => ?timing, fun s p hp => stepWith_of_stalled hp s,
    fun s p hp => stepWith_of_rst hp s⟩
  case timing =>
    obtain ⟨t, hrun, hout⟩ := run_shows_decodeSlot (by rw [hports]; rfl) h hhold hp hhold'
    exact ⟨t, hrun, by rw [hout, hports, decodeSlot_eq]⟩

end Sys2Proof.Proofs
end
